-- ==== Sys2Proof/Word.lean ====
section
/-! DEFINITION. The bit-vector types of the machine (spec/00_scope.md R5, R6, R7): everything is unsigned, bit 0 is
the least significant bit. -/

namespace Sys2Proof

/-- A memory cell, a V register, a timer, an immediate `kk` (R5: 8 bits). -/
abbrev Byte := BitVec 8

/-- An opcode, the program counter, register I, a call-stack entry (R5: 16 bits). -/
abbrev Word := BitVec 16

/-- A 12-bit address: an index into `MEM`, or the field `nnn` (R5 ADDR_BITS). -/
abbrev Addr := BitVec 12

/-- A register index, a key index, a nibble of an opcode (R11, R20). -/
abbrev RegIdx := BitVec 4

/-- Zero extension to 16 bits, the spec's `zext_16` (R7). -/
def zext16 {n : Nat} (b : BitVec n) : Word := b.setWidth 16

end Sys2Proof
end

