-- ==== Sys2Proof/Syntax.lean ====
section
/-! DEFINITION. The instructions: one constructor per row of spec/opcode_table.json (30_encoding.md R74 to R77). Every
operand field of the encoding is an operand here, the ignored ones too (`lo`, bits 3:0 of SE Vx,Vy and SNE Vx,Vy; `y` of
SHR and SHL), so that an instruction says which word it came from (DESIGN CHOICE, log 11; safe). UNKNOWN (R78) is no row of the
table and no constructor: `Sys2Proof.Decoded` holds it. -/

namespace Sys2Proof

inductive Instr where
  /-- `00E0`, clear display (R141). -/
  | cls
  /-- `00EE`, return (R92). -/
  | ret
  /-- `1nnn`, jump (R94). -/
  | jp (nnn : Addr)
  /-- `2nnn`, call subroutine (R93). -/
  | call (nnn : Addr)
  /-- `3xkk`, skip if equal to immediate (R96). -/
  | seImm (x : RegIdx) (kk : Byte)
  /-- `4xkk`, skip if not equal to immediate (R97). -/
  | sneImm (x : RegIdx) (kk : Byte)
  /-- `5xy-`, skip if registers equal; `lo` is ignored (R98). -/
  | seReg (x y : RegIdx) (lo : BitVec 4)
  /-- `6xkk`, load immediate (R112). -/
  | ldImm (x : RegIdx) (kk : Byte)
  /-- `7xkk`, add immediate (R113). -/
  | addImm (x : RegIdx) (kk : Byte)
  /-- `8xy0`, assign (R114). -/
  | ldReg (x y : RegIdx)
  /-- `8xy1`, bitwise OR (R115). -/
  | orReg (x y : RegIdx)
  /-- `8xy2`, bitwise AND (R116). -/
  | andReg (x y : RegIdx)
  /-- `8xy3`, bitwise exclusive OR (R117). -/
  | xorReg (x y : RegIdx)
  /-- `8xy4`, add with carry out (R118). -/
  | addReg (x y : RegIdx)
  /-- `8xy5`, subtract (R119). -/
  | subReg (x y : RegIdx)
  /-- `8xy6`, shift right; `y` is ignored (R121). -/
  | shr (x y : RegIdx)
  /-- `8xy7`, subtract reversed (R120). -/
  | subnReg (x y : RegIdx)
  /-- `8xyE`, shift left; `y` is ignored (R122). -/
  | shl (x y : RegIdx)
  /-- `9xy-`, skip if registers not equal; `lo` is ignored (R99). -/
  | sneReg (x y : RegIdx) (lo : BitVec 4)
  /-- `Annn`, set address register (R131). -/
  | ldI (nnn : Addr)
  /-- `Bnnn`, jump with offset (R95). -/
  | jpV0 (nnn : Addr)
  /-- `Cxkk`, random byte AND mask (R123). -/
  | rnd (x : RegIdx) (kk : Byte)
  /-- `Dxyn`, draw sprite (R142). -/
  | drw (x y : RegIdx) (n : BitVec 4)
  /-- `Ex9E`, skip if key pressed (R150). -/
  | skp (x : RegIdx)
  /-- `ExA1`, skip if key not pressed (R151). -/
  | sknp (x : RegIdx)
  /-- `Fx07`, read delay timer (R152). -/
  | ldVxDt (x : RegIdx)
  /-- `Fx0A`, await key (R153). -/
  | ldVxK (x : RegIdx)
  /-- `Fx15`, set delay timer (R154). -/
  | ldDtVx (x : RegIdx)
  /-- `Fx18`, set sound timer (R155). -/
  | ldStVx (x : RegIdx)
  /-- `Fx1E`, add to address register (R132). -/
  | addI (x : RegIdx)
  /-- `Fx29`, font character address (R133). -/
  | ldF (x : RegIdx)
  /-- `Fx33`, BCD store (R134). -/
  | ldB (x : RegIdx)
  /-- `Fx55`, register dump (R135). -/
  | ldMemVx (x : RegIdx)
  /-- `Fx65`, register load (R136). -/
  | ldVxMem (x : RegIdx)
  deriving DecidableEq, Repr

end Sys2Proof
end

