-- ==== Sys2Proof/WellFormed.lean ====
section
/-! DEFINITION. What an assembler of this hardware can write (30_encoding.md R82). The bounds of the numerals (`nnn`, `kk`
and `n` fit 12, 8 and 4 bits, a register is one hexadecimal digit) are carried by the operand types; the two checks left
are the ignored low nibbles of SE Vx,Vy and SNE Vx,Vy, which assemble as 0. An ill-formed instruction still decodes and
still executes (R72, R98, R99): nothing in the machine asks for well-formedness (log 11). -/

namespace Sys2Proof

/-- R82: "SE Vx,Vy and SNE Vx,Vy assemble with 0 in bits 3:0". SHR and SHL may be written with any `y`. -/
def Instr.wellFormed : Instr → Bool
  | .seReg _ _ lo => lo == 0#4
  | .sneReg _ _ lo => lo == 0#4
  | .cls | .ret | .jp _ | .call _ | .seImm _ _ | .sneImm _ _ | .ldImm _ _ | .addImm _ _ => true
  | .ldReg _ _ | .orReg _ _ | .andReg _ _ | .xorReg _ _ | .addReg _ _ | .subReg _ _ | .subnReg _ _ => true
  | .shr _ _ | .shl _ _ | .ldI _ | .jpV0 _ | .rnd _ _ | .drw _ _ _ | .skp _ | .sknp _ => true
  | .ldVxDt _ | .ldVxK _ | .ldDtVx _ | .ldStVx _ | .addI _ | .ldF _ | .ldB _ | .ldMemVx _ | .ldVxMem _ => true

end Sys2Proof
end

