-- ==== Sys2Proof/Decode.lean ====
section
/-! DEFINITION. Decoding and encoding (spec/30_encoding.md R70 to R82). The decoder is total: every 16-bit value is one of
the 34 instructions or UNKNOWN (R70, R78). The numeric patterns are the spec's, which marks them as general knowledge (log
14, UNVERIFIED, unsafe). -/

namespace Sys2Proof

/-- What a 16-bit opcode decodes to (R70): an instruction, or UNKNOWN with the opcode it reports (R78, R163). -/
inductive Decoded where
  | instr (i : Instr)
  | unknown (op : Word)
  deriving DecidableEq, Repr

/-- Why a sequence of bytes holds no instruction. -/
inductive DecodeError where
  /-- The first two bytes are an opcode that R78 calls UNKNOWN. -/
  | unknownOpcode (op : Word)
  /-- Fewer than the two bytes every instruction has (R70). -/
  | truncated
  deriving DecidableEq, Repr

/-- `fam = op[15:12]` (R11). -/
def fieldFam (op : Word) : BitVec 4 := op.extractLsb' 12 4

/-- `x = op[11:8]` (R11). -/
def fieldX (op : Word) : RegIdx := op.extractLsb' 8 4

/-- `y = op[7:4]` (R11). -/
def fieldY (op : Word) : RegIdx := op.extractLsb' 4 4

/-- `n = op[3:0]` (R11). -/
def fieldN (op : Word) : BitVec 4 := op.extractLsb' 0 4

/-- `kk = op[7:0]` (R11). -/
def fieldKk (op : Word) : Byte := op.extractLsb' 0 8

/-- `nnn = op[11:0]` (R11). -/
def fieldNnn (op : Word) : Addr := op.extractLsb' 0 12

/-- Family 0x0: the selector is op[11:0] (R72, R74). -/
def decodeFam0 (op : Word) : Decoded :=
  match fieldNnn op with
  | 0x0E0#12 => .instr .cls
  | 0x0EE#12 => .instr .ret
  | _ => .unknown op

/-- Family 0x8: the selector is op[3:0] (R72, R75). -/
def decodeFam8 (op : Word) : Decoded :=
  match fieldN op with
  | 0x0#4 => .instr (.ldReg (fieldX op) (fieldY op))
  | 0x1#4 => .instr (.orReg (fieldX op) (fieldY op))
  | 0x2#4 => .instr (.andReg (fieldX op) (fieldY op))
  | 0x3#4 => .instr (.xorReg (fieldX op) (fieldY op))
  | 0x4#4 => .instr (.addReg (fieldX op) (fieldY op))
  | 0x5#4 => .instr (.subReg (fieldX op) (fieldY op))
  | 0x6#4 => .instr (.shr (fieldX op) (fieldY op))
  | 0x7#4 => .instr (.subnReg (fieldX op) (fieldY op))
  | 0xE#4 => .instr (.shl (fieldX op) (fieldY op))
  | _ => .unknown op

/-- Family 0xE: the selector is op[7:0] (R72, R77). -/
def decodeFamE (op : Word) : Decoded :=
  match fieldKk op with
  | 0x9E#8 => .instr (.skp (fieldX op))
  | 0xA1#8 => .instr (.sknp (fieldX op))
  | _ => .unknown op

/-- Family 0xF: the selector is op[7:0] (R72, R77). -/
def decodeFamF (op : Word) : Decoded :=
  match fieldKk op with
  | 0x07#8 => .instr (.ldVxDt (fieldX op))
  | 0x0A#8 => .instr (.ldVxK (fieldX op))
  | 0x15#8 => .instr (.ldDtVx (fieldX op))
  | 0x18#8 => .instr (.ldStVx (fieldX op))
  | 0x1E#8 => .instr (.addI (fieldX op))
  | 0x29#8 => .instr (.ldF (fieldX op))
  | 0x33#8 => .instr (.ldB (fieldX op))
  | 0x55#8 => .instr (.ldMemVx (fieldX op))
  | 0x65#8 => .instr (.ldVxMem (fieldX op))
  | _ => .unknown op

/-- The decode procedure (R72): the high nibble picks the family; families 0x0, 0x8, 0xE, 0xF have a selector, and a
selector that matches nothing is UNKNOWN and nothing else (R79). -/
def decode (op : Word) : Decoded :=
  match fieldFam op with
  | 0x0#4 => decodeFam0 op
  | 0x1#4 => .instr (.jp (fieldNnn op))
  | 0x2#4 => .instr (.call (fieldNnn op))
  | 0x3#4 => .instr (.seImm (fieldX op) (fieldKk op))
  | 0x4#4 => .instr (.sneImm (fieldX op) (fieldKk op))
  | 0x5#4 => .instr (.seReg (fieldX op) (fieldY op) (fieldN op))
  | 0x6#4 => .instr (.ldImm (fieldX op) (fieldKk op))
  | 0x7#4 => .instr (.addImm (fieldX op) (fieldKk op))
  | 0x8#4 => decodeFam8 op
  | 0x9#4 => .instr (.sneReg (fieldX op) (fieldY op) (fieldN op))
  | 0xA#4 => .instr (.ldI (fieldNnn op))
  | 0xB#4 => .instr (.jpV0 (fieldNnn op))
  | 0xC#4 => .instr (.rnd (fieldX op) (fieldKk op))
  | 0xD#4 => .instr (.drw (fieldX op) (fieldY op) (fieldN op))
  | 0xE#4 => decodeFamE op
  | _ => decodeFamF op

/-- Two bytes as an opcode, the first one most significant (20_memory.md R52). -/
def opcodeOfBytes (hi lo : Byte) : Word := hi ++ lo

/-- The decoder on bytes: the instruction at their head and the bytes after it. -/
def decodeBytes : List Byte → Except DecodeError (Instr × List Byte)
  | hi :: lo :: rest =>
    match decode (opcodeOfBytes hi lo) with
    | .instr i => .ok (i, rest)
    | .unknown op => .error (.unknownOpcode op)
  | _ => .error .truncated

/-- The format NNN (R71). -/
def packNnn (fam : BitVec 4) (nnn : Addr) : Word := fam ++ nnn

/-- The formats XKK and XSEL (R71); for XSEL `kk` is the selector. -/
def packXkk (fam : BitVec 4) (x : RegIdx) (kk : Byte) : Word := fam ++ x ++ kk

/-- The formats XY and XYN (R71); for XY `n` is the selector or the ignored nibble. -/
def packXyn (fam : BitVec 4) (x y : RegIdx) (n : BitVec 4) : Word := fam ++ x ++ y ++ n

/-- The encoder, from the patterns of R74 to R77. -/
def encode : Instr → Word
  | .cls => 0x00E0#16
  | .ret => 0x00EE#16
  | .jp nnn => packNnn 0x1#4 nnn
  | .call nnn => packNnn 0x2#4 nnn
  | .seImm x kk => packXkk 0x3#4 x kk
  | .sneImm x kk => packXkk 0x4#4 x kk
  | .seReg x y lo => packXyn 0x5#4 x y lo
  | .ldImm x kk => packXkk 0x6#4 x kk
  | .addImm x kk => packXkk 0x7#4 x kk
  | .ldReg x y => packXyn 0x8#4 x y 0x0#4
  | .orReg x y => packXyn 0x8#4 x y 0x1#4
  | .andReg x y => packXyn 0x8#4 x y 0x2#4
  | .xorReg x y => packXyn 0x8#4 x y 0x3#4
  | .addReg x y => packXyn 0x8#4 x y 0x4#4
  | .subReg x y => packXyn 0x8#4 x y 0x5#4
  | .shr x y => packXyn 0x8#4 x y 0x6#4
  | .subnReg x y => packXyn 0x8#4 x y 0x7#4
  | .shl x y => packXyn 0x8#4 x y 0xE#4
  | .sneReg x y lo => packXyn 0x9#4 x y lo
  | .ldI nnn => packNnn 0xA#4 nnn
  | .jpV0 nnn => packNnn 0xB#4 nnn
  | .rnd x kk => packXkk 0xC#4 x kk
  | .drw x y n => packXyn 0xD#4 x y n
  | .skp x => packXkk 0xE#4 x 0x9E#8
  | .sknp x => packXkk 0xE#4 x 0xA1#8
  | .ldVxDt x => packXkk 0xF#4 x 0x07#8
  | .ldVxK x => packXkk 0xF#4 x 0x0A#8
  | .ldDtVx x => packXkk 0xF#4 x 0x15#8
  | .ldStVx x => packXkk 0xF#4 x 0x18#8
  | .addI x => packXkk 0xF#4 x 0x1E#8
  | .ldF x => packXkk 0xF#4 x 0x29#8
  | .ldB x => packXkk 0xF#4 x 0x33#8
  | .ldMemVx x => packXkk 0xF#4 x 0x55#8
  | .ldVxMem x => packXkk 0xF#4 x 0x65#8

/-- The high byte of an opcode, the one at PC (R52). -/
def highByte (op : Word) : Byte := op.extractLsb' 8 8

/-- The low byte of an opcode, the one at PC + 1 (R52). -/
def lowByte (op : Word) : Byte := op.extractLsb' 0 8

/-- The opcode whose bits, numbered as spec/opcode_table.json numbers them (bit 15 the top bit of the byte at PC), are the
low `nbits` bits of `w`; the bits above are 0. -/
def tableOpcode (nbits w : Nat) : Word := BitVec.ofNat 16 (w % 2 ^ nbits)

/-- The instruction the decoder reads from the bytes of `tableOpcode`, laid out as the hardware stores them. -/
def decodeTableWord (nbits w : Nat) : Option Instr :=
  match decodeBytes [highByte (tableOpcode nbits w), lowByte (tableOpcode nbits w)] with
  | .ok (i, _) => some i
  | .error _ => none

end Sys2Proof
end

