-- ==== Sys2Proof/Config.lean ====
section
/-! DEFINITION. What this implementation fixes (spec/00_scope.md R5) and the one free value, the RAND input. -/

namespace Sys2Proof

/-- MEM_SIZE (R5). -/
abbrev Config.memSize : Nat := 4096

/-- W, the display's columns (R5, R140). -/
abbrev Config.width : Nat := 64

/-- H, the display's rows (R5, R140). -/
abbrev Config.height : Nat := 32

/-- STACK_DEPTH (R5, R25). -/
abbrev Config.stackDepth : Nat := 16

/-- PROGRAM_BASE, where the program image goes and where the first instruction is fetched (R5, R203). -/
abbrev Config.programBase : Nat := 0x200

/-- ROM_MAX, the largest program image in bytes (R5, R174). -/
abbrev Config.romMax : Nat := 3584

/-- GLYPH_BYTES (R5, R57, R133). -/
abbrev Config.glyphBytes : Nat := 5

/-- FONT_END, exclusive: the font is `MEM[0x000..0x04F]` (R5, R57). -/
abbrev Config.fontEnd : Nat := 0x50

/-- FONT is a parameter of 80 bytes, an argument of the model (R5, R57): the machine carries it as `State.font`, so a claim about
every state holds for every FONT. -/
abbrev Config.Font := Vector Byte Config.fontEnd

/-- R57's default table, glyphs 0 to 7. The spec takes these bytes from general knowledge (log 5, UNVERIFIED, unsafe): a
statement about glyph pixels has this table, `Config.defaultFont`, as a premise. -/
def Config.fontLow : List Byte :=
  [0xF0, 0x90, 0x90, 0x90, 0xF0] ++ [0x20, 0x60, 0x20, 0x20, 0x70] ++
  [0xF0, 0x10, 0xF0, 0x80, 0xF0] ++ [0xF0, 0x10, 0xF0, 0x10, 0xF0] ++
  [0x90, 0x90, 0xF0, 0x10, 0x10] ++ [0xF0, 0x80, 0xF0, 0x10, 0xF0] ++
  [0xF0, 0x80, 0xF0, 0x90, 0xF0] ++ [0xF0, 0x10, 0x20, 0x40, 0x40]

/-- R57's default table, glyphs 8 to F. -/
def Config.fontHigh : List Byte :=
  [0xF0, 0x90, 0xF0, 0x90, 0xF0] ++ [0xF0, 0x90, 0xF0, 0x10, 0xF0] ++
  [0xF0, 0x90, 0xF0, 0x90, 0x90] ++ [0xE0, 0x90, 0xE0, 0x90, 0xE0] ++
  [0xF0, 0x80, 0x80, 0x80, 0xF0] ++ [0xE0, 0x90, 0x90, 0x90, 0xE0] ++
  [0xF0, 0x80, 0xF0, 0x80, 0xF0] ++ [0xF0, 0x80, 0xF0, 0x80, 0x80]

/-- The default value of FONT (R57): what `State.reset` takes for it. -/
def Config.defaultFont : Config.Font := ⟨(Config.fontLow ++ Config.fontHigh).toArray, rfl⟩

/-- The byte the environment presents on the `rand` port at the k-th draw (R123, R178): a FREE VALUE, nothing in Lean knows
it, so a claim about RND holds for every sequence of random bytes (log 4; safe). -/
opaque Config.rand : Nat → Byte

end Sys2Proof
end

