-- ==== Sys2Proof/Machine/State.lean ====
section
/-! DEFINITION. The whole machine state as plain data (spec/10_state.md R20 to R37) and its value at reset. -/

namespace Sys2Proof.Machine

/-- Reasons for which the machine itself would stop with a fault. There is none: the three faults of 60_exceptions.md R160 are
no stop of the model, they set the latch `State.fault` in a next state (R166, `FaultCode`), and no access can fail, since
every address an instruction forms exists (R56, R130). Nobody raises a `Fault` (safe). -/
inductive Fault where
  deriving DecidableEq, Repr

/-- Reasons for which a step has no meaning. No instruction answers with one of the last two. -/
inductive Refusal where
  /-- An instruction whose meaning is not written yet; raised by `exec` only (safe). No arm raises it. -/
  | notModelled (mnemonic : String)
  /-- A ROM load after the first cycle step or after an earlier load, raised by the host step `romLoad` (safe): "A load while
  the machine is running is outside this spec: a model gives it no step" (R174; log 8). -/
  | romLoadWhileRunning
  /-- A ROM image above 3584 bytes, raised by the host step `romLoad` (safe): "Oversize input is rejected before reaching
  the core" (R174; log 8). -/
  | romImageTooLarge
  deriving DecidableEq, Repr

/-- The codes of the latch FAULT (R34, R160). -/
inductive FaultCode where
  /-- Code 1: CALL with SP = 16. -/
  | stackOverflow
  /-- Code 2: RET with SP = 0. -/
  | stackUnderflow
  /-- Code 3: a cycle step with PC > 0xFFE. -/
  | pcOutOfRange
  deriving DecidableEq, Repr

/-- A step the environment asks for (00_scope.md R10; the input ports of 60_exceptions.md R173). -/
inductive Event where
  /-- `cycle_req`: one cycle step (40_flow.md R90). -/
  | cycle
  /-- `tick_req`: the tick actor's next step, a tick step or the audio update that follows it (R170, R171). -/
  | tickActor
  /-- `keys`: a key update (R175). -/
  | keyUpdate (levels : BitVec 16)
  /-- `key_evt_valid`, `key_evt_idx`: a key-press event (R169). -/
  | keyPress (k : RegIdx)
  /-- `dirty_clr`: the renderer has consumed the frame (R177). -/
  | dirtyConsume
  /-- `fb_x`, `fb_y`: a read of one pixel by the display adapter (R176). -/
  | displayRead (x : BitVec 6) (y : BitVec 5)
  /-- `rom_we`, `rom_addr`, `rom_data`: the ROM load (R174). -/
  | romLoad (image : List Byte)
  /-- `rst`: reset (70_reset_and_hazards.md R200). -/
  | reset
  deriving DecidableEq, Repr

/-- FB: rows of cells, `FB[y][x]` (R30, R140). -/
abbrev Frame := Vector (Vector Bool Config.width) Config.height

/-- The machine. The first fourteen fields are the state the spec lists (R36); `font` is the parameter FONT (R5, log 5); `audioDue` and `romLoadable` are where its two
actors stand in their own order (R171, R174, R180); `draws`, `reports` and `schedule` are the model's own (log 1, 3, 4, 7). -/
structure State where
  /-- V[0..15]; V[15] is VF (R20, R22). -/
  v : Vector Byte 16
  /-- The address register (R24). -/
  i : Word
  /-- The program counter (R23). -/
  pc : Word
  /-- STACK[0..15], outside MEM (R25). -/
  stack : Vector Word Config.stackDepth
  /-- SP, the number of live entries, 0..16 (R26). -/
  sp : Fin (Config.stackDepth + 1)
  /-- The delay timer (R27). -/
  dt : Byte
  /-- The sound timer (R28). -/
  st : Byte
  /-- FONT, the parameter (R5, R57): what reset installs in `MEM[0x000..0x04F]`. No step changes it (log 5). -/
  font : Config.Font
  /-- MEM, the cells that differ from the reset contents, addresses rising (R29; `memWf` in Machine/Ops.lean). -/
  mem : List Host.Cell
  /-- The framebuffer (R30). -/
  fb : Frame
  /-- DIRTY (R31). -/
  dirty : Bool
  /-- KEYS, bit k is key k (R32). -/
  keys : BitVec 16
  /-- PENDING, the register awaiting a key (R33). -/
  pending : Option RegIdx
  /-- FAULT, the halt latch (R34). -/
  fault : Option FaultCode
  /-- AUDIO, the output latch (R35). -/
  audio : Bool
  /-- `st_after` of a tick step whose audio update has not come yet (R170, R171). -/
  audioDue : Option Byte
  /-- Whether the one ROM load may still come: after reset, before a load and before the first cycle step (R174). -/
  romLoadable : Bool
  /-- How many bytes the RAND input has delivered, the argument of `Config.rand` (R123, R178; log 4). -/
  draws : Nat
  /-- The opcodes emitted on `unk_valid`, `unk_op`, the latest first; nothing in the block reads it (R163; log 7). -/
  reports : List Word
  /-- The steps the environment asks for next, in order; when it is empty a cycle step comes next (log 1). -/
  schedule : List Event
  deriving DecidableEq, Repr

/-- What every step and every meaning answers. -/
abbrev Result := Host.Outcome State Fault Refusal

/-- The machine with a given FONT right after reset: the table of R37 (R200, R201). The spec leaves STACK unspecified; it is 0 here (log 2,
DESIGN CHOICE, unsafe but unobservable, R25). `mem` lists nothing: an unlisted address reads as the reset contents. -/
def State.resetWith (font : Config.Font) : State where
  v := Vector.replicate 16 0#8
  i := 0#16
  pc := 0x200#16
  stack := Vector.replicate Config.stackDepth 0#16
  sp := 0
  dt := 0#8
  st := 0#8
  font := font
  mem := []
  fb := Vector.replicate Config.height (Vector.replicate Config.width false)
  dirty := false
  keys := 0#16
  pending := none
  fault := none
  audio := false
  audioDue := none
  romLoadable := true
  draws := 0
  reports := []
  schedule := []

/-- The machine right after reset, FONT at its default value (R57; log 5). -/
def State.reset : State := State.resetWith Config.defaultFont

end Sys2Proof.Machine
end

