-- ==== Sys2Proof/Machine/Ops.lean ====
section
/-! DEFINITION. The named operations over memory, registers, stack, program counter and the latches; fault entry (60_exceptions.md
R166). There is no return from a fault: only reset leaves it (R167), `resetStep` in Machine/Actors.lean. -/

namespace Sys2Proof.Machine

/-! ## Memory (R50 to R58) -/

/-- What an address reads as before anything writes it: FONT below 0x50, 0 elsewhere (R29, R56; the whole map is R56). -/
def memInitial (font : Config.Font) (a : Nat) : Byte := if h : a < Config.fontEnd then font[a] else 0#8

/-- `MemRead(a, 1)` (R9). -/
def memRead (font : Config.Font) : List Host.Cell → Nat → Byte
  | [], a => memInitial font a
  | (k, c) :: rest, a => if a = k then c else memRead font rest a

/-- Put the cell (a, b) before the first cell of a higher address. -/
def memInsert : List Host.Cell → Nat → Byte → List Host.Cell
  | [], a, b => [(a, b)]
  | (k, c) :: rest, a, b => if a < k then (a, b) :: (k, c) :: rest else (k, c) :: memInsert rest a b

/-- Drop the cells of address a. -/
def memErase : List Host.Cell → Nat → List Host.Cell
  | [], _ => []
  | (k, c) :: rest, a => if k = a then memErase rest a else (k, c) :: memErase rest a

/-- `MemWrite(a, 1, b)` (R9), keeping the canonical form: a byte equal to the reset contents is not listed. -/
def memWrite (font : Config.Font) (m : List Host.Cell) (a : Nat) (b : Byte) : List Host.Cell :=
  if b = memInitial font a then memErase m a else memInsert (memErase m a) a b

/-- The canonical form: addresses of the 4096-byte space, strictly rising, each from `lo` up, no cell equal to the reset
contents. -/
def memWfFrom (font : Config.Font) : Nat → List Host.Cell → Bool
  | _, [] => true
  | lo, (k, c) :: rest =>
    decide (lo ≤ k) && decide (k < Config.memSize) && !(c == memInitial font k) && memWfFrom font (k + 1) rest

/-- The memory is in canonical form, so that equal memories are equal data (log 13). -/
def memWf (font : Config.Font) (m : List Host.Cell) : Bool := memWfFrom font 0 m

/-- The state's memory is in canonical form. -/
def State.memWf (s : State) : Bool := Machine.memWf s.font s.mem

/-- The byte at a 12-bit address. -/
def State.readMem (s : State) (a : Addr) : Byte := memRead s.font s.mem a.toNat

/-- Store one byte at a 12-bit address. -/
def State.writeMem (s : State) (a : Addr) (b : Byte) : State := { s with mem := memWrite s.font s.mem a.toNat b }

/-- Store consecutive bytes from address `a` up, wrapping at 4096. -/
def State.writeBytes (s : State) (a : Addr) : List Byte → State
  | [] => s
  | b :: bs => State.writeBytes (s.writeMem a b) (a + 1#12) bs

/-! ## Registers -/

/-- VF is V[15] (R22). -/
def vf : RegIdx := 0xF#4

/-- Read `V[x]` (R20). -/
def State.getV (s : State) (x : RegIdx) : Byte := s.v[x.toNat]'x.isLt

/-- Write `V[x]` (R20); no register is hard-wired. -/
def State.setV (s : State) (x : RegIdx) (b : Byte) : State := { s with v := s.v.set x.toNat b x.isLt }

/-- Write I, 16 bits (R24). -/
def State.setI (s : State) (w : Word) : State := { s with i := w }

/-- Write DT (R27). -/
def State.setDt (s : State) (b : Byte) : State := { s with dt := b }

/-- Write ST (R28). -/
def State.setSt (s : State) (b : Byte) : State := { s with st := b }

/-- Write the framebuffer and set DIRTY, as CLS and DRW do whether or not a pixel changed (R31). -/
def State.setFrame (s : State) (fb : Frame) : State := { s with fb := fb, dirty := true }

/-- Clear DIRTY (R177). -/
def State.clearDirty (s : State) : State := { s with dirty := false }

/-- Write KEYS (R175). -/
def State.setKeys (s : State) (levels : BitVec 16) : State := { s with keys := levels }

/-- Write PENDING (R33). -/
def State.setPending (s : State) (p : Option RegIdx) : State := { s with pending := p }

/-- Write AUDIO and note that no audio update is due (R171). -/
def State.setAudio (s : State) (on : Bool) : State := { s with audio := on, audioDue := none }

/-- Hand `st_after` to the audio update (R170). -/
def State.owesAudio (s : State) (stAfter : Byte) : State := { s with audioDue := some stAfter }

/-- The ROM load is over, or a cycle step has run (R174). -/
def State.closeLoad (s : State) : State := { s with romLoadable := false }

/-- `draw()`: the byte on the RAND port, a free value, and the state that has consumed it (R9, R178). -/
def State.draw (s : State) : Byte × State := (Config.rand s.draws, { s with draws := s.draws + 1 })

/-- `report Unknown(op)` (R9, R163): an output; the block's own state does not change. -/
def State.report (s : State) (op : Word) : State := { s with reports := op :: s.reports }

/-- The environment asks for `es` next. -/
def State.setSchedule (s : State) (es : List Event) : State := { s with schedule := es }

/-! ## Program counter (R23, R91) -/

/-- `PC <- target`. -/
def State.setPc (s : State) (w : Word) : State := { s with pc := w }

/-- `PC <- PC + 2`. -/
def State.advance (s : State) : State := s.setPc (s.pc + 2#16)

/-- `if c: PC <- PC + 4 else PC <- PC + 2`; a skip never looks at the instruction it skips (R81). -/
def State.skipIf (s : State) (c : Bool) : State := s.setPc (if c then s.pc + 4#16 else s.pc + 2#16)

/-! ## Call stack (R25, R26) -/

/-- `STACK[SP] <- w; SP <- SP + 1`; none when SP = 16. -/
def State.push (s : State) (w : Word) : Option State :=
  if h : s.sp.val < Config.stackDepth then
    some { s with stack := s.stack.set s.sp.val w h, sp := ⟨s.sp.val + 1, Nat.succ_lt_succ h⟩ }
  else none

/-- `SP <- SP - 1`, and the entry STACK[SP] there; none when SP = 0. The entry keeps its content (R92). -/
def State.pop (s : State) : Option (Word × State) :=
  if h : s.sp.val = 0 then none
  else
    have hlt : s.sp.val - 1 < Config.stackDepth := by have := s.sp.isLt; omega
    some (s.stack[s.sp.val - 1]'hlt, { s with sp := ⟨s.sp.val - 1, Nat.lt_succ_of_lt hlt⟩ })

/-! ## Faults (R160, R166) -/

/-- Fault entry, given the state at the START of the step: every write of the step is discarded and FAULT is set. Nothing is
saved and control goes nowhere (R166); PC stays at the offending instruction (R161). -/
def State.raise (s : State) (f : FaultCode) : State := { s with fault := some f }

/-- The cycle step is disabled (R90): FAULT or PENDING is set. -/
def State.stalled (s : State) : Bool := s.fault.isSome || s.pending.isSome

/-- The code of a fault on the port `fault` (R36, R160). -/
def faultNumber : FaultCode → BitVec 2
  | .stackOverflow => 1#2
  | .stackUnderflow => 2#2
  | .pcOutOfRange => 3#2

end Sys2Proof.Machine
end

