-- ==== Sys2Proof/Machine/Flags.lean ====
section
/-! DEFINITION. The values written to VF (spec/10_state.md R22, 41_alu.md R110): always 0 or 1, zero-extended to 8 bits. The flag is
written after the result, so that it stays when x = 15 (R111). -/

namespace Sys2Proof.Machine

/-- A flag as a byte, 0 or 1 (R22). -/
def flagByte (c : Bool) : Byte := if c then 1#8 else 0#8

/-- ADD Vx,Vy: the unsigned sum exceeds 255 (R110, R118). -/
def carryOut (a b : Byte) : Bool := decide (255 < a.toNat + b.toNat)

/-- SUB and SUBN: the minuend is strictly greater; equal operands give 0 (R110, R119, R120). -/
def greater (a b : Byte) : Bool := decide (b.toNat < a.toNat)

/-- SHR: the bit shifted out, bit 0 (R121). -/
def lowBit (a : Byte) : Bool := a.getLsbD 0

/-- SHL: the bit shifted out, bit 7 (R122). -/
def highBit (a : Byte) : Bool := a.getLsbD 7

/-- `V[x] <- result`, then `V[15] <- flag`, in that order (R111). -/
def State.setResultFlag (s : State) (x : RegIdx) (result : Byte) (flag : Bool) : State :=
  (s.setV x result).setV vf (flagByte flag)

end Sys2Proof.Machine
end

