-- ==== Sys2Proof/Machine/Operands.lean ====
section
/-! DEFINITION. The operand forms: the one addressing mode (spec/42_index_memory.md R130), the opcode fetch (20_memory.md R52),
the key index (44_keys_timers.md R150), pixel coordinates (43_display.md R140) and decimal digits (R134). -/

namespace Sys2Proof.Machine

/-- `EA(k) = (I + k) mod 4096` (R130): computed exactly, then narrowed to 12 bits. -/
def State.ea (s : State) (k : Nat) : Addr := BitVec.ofNat 12 (s.i.toNat + k)

/-- The highest PC that passes the fetch check (R23, R90). -/
def fetchLimit : Word := 0xFFE#16

/-- `op = MEM[PC] ++ MEM[PC+1]`, big-endian (R52), for a PC in [0, 0xFFE], odd or even (R53). -/
def State.fetch (s : State) : Word :=
  opcodeOfBytes (memRead s.font s.mem s.pc.toNat) (memRead s.font s.mem (s.pc.toNat + 1))

/-- KEYS at the low 4 bits of a register value (R150). -/
def State.keyDown (s : State) (b : Byte) : Bool := s.keys.getLsbD (b.toNat % 16)

/-- The column of sprite column `c` (R140, R142): `(x0 + c) mod W`. -/
def column (x0 : Byte) (c : Nat) : Fin Config.width := ⟨(x0.toNat + c) % Config.width, Nat.mod_lt _ (by decide)⟩

/-- The row of sprite row `r` (R140, R142): `(y0 + r) mod H`. -/
def row (y0 : Byte) (r : Nat) : Fin Config.height := ⟨(y0.toNat + r) % Config.height, Nat.mod_lt _ (by decide)⟩

/-- `v div 100` (R134). -/
def hundreds (b : Byte) : Byte := BitVec.ofNat 8 (b.toNat / 100)

/-- `(v div 10) mod 10` (R134). -/
def tens (b : Byte) : Byte := BitVec.ofNat 8 (b.toNat / 10 % 10)

/-- `v mod 10` (R134). -/
def units (b : Byte) : Byte := BitVec.ofNat 8 (b.toNat % 10)

/-- `V[x] * 5` in 16 bits (R133): the whole byte is multiplied, and the product is at most 1275. -/
def glyphAddress (b : Byte) : Word := BitVec.ofNat 16 (b.toNat * Config.glyphBytes)

end Sys2Proof.Machine
end

