-- ==== Sys2Proof/Machine/Alu.lean ====
section
/-! DEFINITION. Register load, arithmetic, logic, shifts, random (spec/41_alu.md R110 to R123). Every source is read before
anything is written (R111). -/

namespace Sys2Proof.Machine

/-- LD Vx,kk (R112). -/
def execLdImm (x : RegIdx) (kk : Byte) (s : State) : Result := .next (s.setV x kk).advance

/-- ADD Vx,kk (R113): wraps modulo 256, writes no flag. -/
def execAddImm (x : RegIdx) (kk : Byte) (s : State) : Result := .next (s.setV x (s.getV x + kk)).advance

/-- LD Vx,Vy (R114). -/
def execLdReg (x y : RegIdx) (s : State) : Result := .next (s.setV x (s.getV y)).advance

/-- OR Vx,Vy (R115). -/
def execOrReg (x y : RegIdx) (s : State) : Result := .next (s.setV x (s.getV x ||| s.getV y)).advance

/-- AND Vx,Vy (R116). -/
def execAndReg (x y : RegIdx) (s : State) : Result := .next (s.setV x (s.getV x &&& s.getV y)).advance

/-- XOR Vx,Vy (R117). -/
def execXorReg (x y : RegIdx) (s : State) : Result := .next (s.setV x (s.getV x ^^^ s.getV y)).advance

/-- ADD Vx,Vy (R118): VF is the carry. -/
def execAddReg (x y : RegIdx) (s : State) : Result :=
  .next (s.setResultFlag x (s.getV x + s.getV y) (carryOut (s.getV x) (s.getV y))).advance

/-- SUB Vx,Vy (R119): VF is 1 exactly when V[x] > V[y]. -/
def execSubReg (x y : RegIdx) (s : State) : Result :=
  .next (s.setResultFlag x (s.getV x - s.getV y) (greater (s.getV x) (s.getV y))).advance

/-- SUBN Vx,Vy (R120): V[y] - V[x] into V[x]; VF is 1 exactly when V[y] > V[x]. -/
def execSubnReg (x y : RegIdx) (s : State) : Result :=
  .next (s.setResultFlag x (s.getV y - s.getV x) (greater (s.getV y) (s.getV x))).advance

/-- SHR Vx (R121): V[x] div 2; V[y] is neither read nor written. -/
def execShr (x _y : RegIdx) (s : State) : Result :=
  .next (s.setResultFlag x (s.getV x >>> 1) (lowBit (s.getV x))).advance

/-- SHL Vx (R122): (V[x] * 2) mod 256; V[y] is neither read nor written. -/
def execShl (x _y : RegIdx) (s : State) : Result :=
  .next (s.setResultFlag x (s.getV x <<< 1) (highBit (s.getV x))).advance

/-- RND Vx,kk (R123): one fresh draw of the RAND input, a free value (log 4), ANDed with kk. -/
def execRnd (x : RegIdx) (kk : Byte) (s : State) : Result :=
  .next (s.draw.2.setV x (s.draw.1 &&& kk)).advance

end Sys2Proof.Machine
end

