-- ==== Sys2Proof/Machine/Display.lean ====
section
/-! DEFINITION. The framebuffer controller (spec/43_display.md R140 to R143): CLS and DRW. -/

namespace Sys2Proof.Machine

/-- `FB[py][px]`. -/
def pixel (fb : Frame) (py : Fin Config.height) (px : Fin Config.width) : Bool := (fb[py.val]'py.isLt)[px.val]'px.isLt

/-- `FB[py][px] <- b`. -/
def setPixel (fb : Frame) (py : Fin Config.height) (px : Fin Config.width) (b : Bool) : Frame :=
  fb.set py.val ((fb[py.val]'py.isLt).set px.val b px.isLt) py.isLt

/-- All cells 0 (R141). -/
def blankFrame : Frame := Vector.replicate Config.height (Vector.replicate Config.width false)

/-- CLS (R141): DIRTY is set whether or not a pixel changed. -/
def execCls (s : State) : Result := .next (s.setFrame blankFrame).advance

/-- The framebuffer and the local `collide` of R142's loops. -/
structure Drawing where
  fb : Frame
  collide : Bool
  deriving DecidableEq, Repr

/-- XOR one pixel with 1; a pixel that was set collides (R142). -/
def flipPixel (d : Drawing) (py : Fin Config.height) (px : Fin Config.width) : Drawing :=
  ⟨setPixel d.fb py px (!pixel d.fb py px), d.collide || pixel d.fb py px⟩

/-- Sprite row `r`, its first `c` columns left to right: bit 7 of the byte is the leftmost pixel (R142). -/
def drawColumns (x0 y0 : Byte) (r : Nat) (b : Byte) (d : Drawing) : Nat → Drawing
  | 0 => d
  | c + 1 =>
    let d' := drawColumns x0 y0 r b d c
    if b.getLsbD (7 - c) then flipPixel d' (row y0 r) (column x0 c) else d'

/-- The first `n` sprite rows top to bottom, row r being the byte at EA(r) (R142). -/
def State.drawRows (s : State) (x0 y0 : Byte) : Nat → Drawing
  | 0 => ⟨s.fb, false⟩
  | r + 1 => drawColumns x0 y0 r (s.readMem (s.ea r)) (s.drawRows x0 y0 r) 8

/-- DRW Vx,Vy,n (R142): coordinates and I are sampled before anything is written; VF is written also when n = 0. -/
def execDrw (x y : RegIdx) (n : BitVec 4) (s : State) : Result :=
  .next ((s.setFrame (s.drawRows (s.getV x) (s.getV y) n.toNat).fb).setV vf
    (flagByte (s.drawRows (s.getV x) (s.getV y) n.toNat).collide)).advance

end Sys2Proof.Machine
end

