-- ==== Sys2Proof/Machine/Flow.lean ====
section
/-! DEFINITION. Control transfer (spec/40_flow.md R92 to R100): RET, CALL, the jumps, the skips on registers, UNKNOWN. -/

namespace Sys2Proof.Machine

/-- RET (R92). -/
def execRet (s : State) : Result :=
  match s.pop with
  | none => .next (s.raise .stackUnderflow)
  | some (saved, t) => .next (t.setPc (saved + 2#16))

/-- CALL nnn (R93): the saved value is the address of the CALL itself. -/
def execCall (nnn : Addr) (s : State) : Result :=
  match s.push s.pc with
  | none => .next (s.raise .stackOverflow)
  | some t => .next (t.setPc (zext16 nnn))

/-- JP nnn (R94). -/
def execJp (nnn : Addr) (s : State) : Result := .next (s.setPc (zext16 nnn))

/-- JP V0,nnn (R95): a 16-bit sum, no mask; the offset is always V[0]. -/
def execJpV0 (nnn : Addr) (s : State) : Result := .next (s.setPc (zext16 nnn + zext16 (s.getV 0#4)))

/-- SE Vx,kk (R96). -/
def execSeImm (x : RegIdx) (kk : Byte) (s : State) : Result := .next (s.skipIf (s.getV x == kk))

/-- SNE Vx,kk (R97). -/
def execSneImm (x : RegIdx) (kk : Byte) (s : State) : Result := .next (s.skipIf (s.getV x != kk))

/-- SE Vx,Vy (R98); bits 3:0 of the opcode are ignored. -/
def execSeReg (x y : RegIdx) (_lo : BitVec 4) (s : State) : Result := .next (s.skipIf (s.getV x == s.getV y))

/-- SNE Vx,Vy (R99); bits 3:0 of the opcode are ignored. -/
def execSneReg (x y : RegIdx) (_lo : BitVec 4) (s : State) : Result := .next (s.skipIf (s.getV x != s.getV y))

/-- UNKNOWN (R100): one report, then PC + 2; never fatal. -/
def execUnknown (op : Word) (s : State) : Result := .next (s.report op).advance

end Sys2Proof.Machine
end

