-- ==== Sys2Proof/Machine/Index.lean ====
section
/-! DEFINITION. The address register, loads and stores (spec/42_index_memory.md R130 to R136). No access changes I (R130). -/

namespace Sys2Proof.Machine

/-- LD I,nnn (R131). -/
def execLdI (nnn : Addr) (s : State) : Result := .next (s.setI (zext16 nnn)).advance

/-- ADD I,Vx (R132): wraps modulo 65536, no flag. -/
def execAddI (x : RegIdx) (s : State) : Result := .next (s.setI (s.i + zext16 (s.getV x))).advance

/-- LD F,Vx (R133): no memory access. -/
def execLdF (x : RegIdx) (s : State) : Result := .next (s.setI (glyphAddress (s.getV x))).advance

/-- Hundreds, tens, units of `b` at EA(0), EA(1), EA(2) (R134). -/
def State.storeBcd (s : State) (b : Byte) : State :=
  ((s.writeMem (s.ea 0) (hundreds b)).writeMem (s.ea 1) (tens b)).writeMem (s.ea 2) (units b)

/-- LD B,Vx (R134). -/
def execLdB (x : RegIdx) (s : State) : Result := .next (s.storeBcd (s.getV x)).advance

/-- Store the first `n` V registers at EA(0), EA(1), ... in ascending order (R135). -/
def State.dumpRegs (s : State) : Nat → State
  | 0 => s
  | n + 1 => (s.dumpRegs n).writeMem (s.ea n) (s.getV (BitVec.ofNat 4 n))

/-- Load the first `n` V registers from EA(0), EA(1), ... in ascending order (R136). -/
def State.loadRegs (s : State) : Nat → State
  | 0 => s
  | n + 1 => (s.loadRegs n).setV (BitVec.ofNat 4 n) (s.readMem (s.ea n))

/-- LD [I],Vx (R135): V[0]..V[x] inclusive; I unchanged. -/
def execLdMemVx (x : RegIdx) (s : State) : Result := .next (s.dumpRegs (x.toNat + 1)).advance

/-- LD Vx,[I] (R136): V[0]..V[x] inclusive; I unchanged. -/
def execLdVxMem (x : RegIdx) (s : State) : Result := .next (s.loadRegs (x.toNat + 1)).advance

end Sys2Proof.Machine
end

