-- ==== Sys2Proof/Machine/Keys.lean ====
section
/-! DEFINITION. Key and timer instructions (spec/44_keys_timers.md R150 to R155). -/

namespace Sys2Proof.Machine

/-- SKP Vx (R150): the key index is the low 4 bits of V[x]. -/
def execSkp (x : RegIdx) (s : State) : Result := .next (s.skipIf (s.keyDown (s.getV x)))

/-- SKNP Vx (R151). -/
def execSknp (x : RegIdx) (s : State) : Result := .next (s.skipIf (!s.keyDown (s.getV x)))

/-- LD Vx,DT (R152). -/
def execLdVxDt (x : RegIdx) (s : State) : Result := .next (s.setV x s.dt).advance

/-- LD Vx,K (R153): PC moves on at once; V[x] is written later, by the key delivery (R169). -/
def execLdVxK (x : RegIdx) (s : State) : Result := .next (s.setPending (some x)).advance

/-- LD DT,Vx (R154). -/
def execLdDtVx (x : RegIdx) (s : State) : Result := .next (s.setDt (s.getV x)).advance

/-- LD ST,Vx (R155): AUDIO does not change here. -/
def execLdStVx (x : RegIdx) (s : State) : Result := .next (s.setSt (s.getV x)).advance

end Sys2Proof.Machine
end

