-- ==== Sys2Proof/Machine/Cycle.lean ====
section
/-! DEFINITION. The cycle step (spec/40_flow.md R90) and its order of checks (60_exceptions.md R165). -/

namespace Sys2Proof.Machine

/-- Execute what the decoder answered: exactly one of the instruction rules, or UNKNOWN (R90, R100). -/
def execDecoded (d : Decoded) (s : State) : Result :=
  match d with
  | .instr i => exec i s
  | .unknown op => execUnknown op s

/-- The cycle step (R90): stalled, it changes nothing at all; with PC above 0xFFE it fetches nothing and raises PcOutOfRange;
else it fetches, decodes and executes. The first one ends the time in which a ROM load may come (R174). -/
def cycleStep (s : State) : Result :=
  if s.stalled then .next s
  else if fetchLimit.toNat < s.pc.toNat then .next (s.raise .pcOutOfRange)
  else execDecoded (decode s.fetch) s.closeLoad

end Sys2Proof.Machine
end

