-- ==== Sys2Proof/Machine/Actors.lean ====
section
/-! DEFINITION. The steps other than the cycle step (spec/60_exceptions.md R169 to R177, 70_reset_and_hazards.md R200): tick, audio
update, key delivery, key update, dirty consume, display read, ROM load, reset. Each is atomic and, unless it says otherwise,
always enabled, also while PENDING or FAULT is set (R166, R183). -/

namespace Sys2Proof.Machine

/-- A timer after one tick: minus 1, floor 0 (R170). -/
def countDown (b : Byte) : Byte := if b = 0#8 then 0#8 else b - 1#8

/-- The tick step (R170): both timers in the same step; the new ST is handed to the audio update. -/
def tickStep (s : State) : State := ((s.setDt (countDown s.dt)).setSt (countDown s.st)).owesAudio (countDown s.st)

/-- The audio update (R171): AUDIO from the value the tick step returned, not from the ST of this moment. -/
def audioUpdate (s : State) (stAfter : Byte) : State := s.setAudio (decide (0 < stAfter.toNat))

/-- The tick actor's next step: tick step, audio update, tick step, audio update, and so on (R171, R180; log 17). -/
def tickActorStep (s : State) : State :=
  match s.audioDue with
  | none => tickStep s
  | some stAfter => audioUpdate s stAfter

/-- Key delivery (R169): the awaiting register receives the key index; with nothing pending the event is dropped. -/
def keyDelivery (s : State) (k : RegIdx) : State :=
  match s.pending with
  | none => s
  | some r => (s.setV r (k.setWidth 8)).setPending none

/-- Key update (R175). -/
def keyUpdate (s : State) (levels : BitVec 16) : State := s.setKeys levels

/-- Dirty consume (R177). -/
def dirtyConsume (s : State) : State := s.clearDirty

/-- Display read (R176): reading FB changes nothing; what is read is `State.fbQ` of Machine/Ports.lean. -/
def displayRead (s : State) (_x : BitVec 6) (_y : BitVec 5) : State := s

/-- ROM load (R174): the image verbatim from 0x200 up, once, after reset and before the first cycle step. -/
def romLoad (s : State) (image : List Byte) : Result :=
  if !s.romLoadable then .refused .romLoadWhileRunning
  else if Config.romMax < image.length then .refused .romImageTooLarge
  else .next (s.closeLoad.writeBytes (BitVec.ofNat 12 Config.programBase) image)

/-- Reset (R200): every piece of the block's state at its reset value for this machine's FONT, whatever it held. What is the environment's stays:
the steps it asks for next, how far its random bytes have come, the reports already emitted (log 10). -/
def resetStep (s : State) : State :=
  { State.resetWith s.font with draws := s.draws, reports := s.reports, schedule := s.schedule }

/-- One step that the environment asked for. -/
def perform (e : Event) (s : State) : Result :=
  match e with
  | .cycle => cycleStep s
  | .tickActor => .next (tickActorStep s)
  | .keyUpdate levels => .next (keyUpdate s levels)
  | .keyPress k => .next (keyDelivery s k)
  | .dirtyConsume => .next (dirtyConsume s)
  | .displayRead x y => .next (displayRead s x y)
  | .romLoad image => romLoad s image
  | .reset => .next (resetStep s)

/-- The next step of the machine: the first one the environment asked for, or a cycle step when it asked for none (log 1). -/
def nextStep (s : State) : Result :=
  match s.schedule with
  | [] => cycleStep s
  | e :: rest => perform e (s.setSchedule rest)

/-- The state in which the next step is a cycle step that fetches the opcode `op` at PC (log 9): the two bytes at PC, the load
window closed as after a ROM load, neither latch that stalls set, and a cycle step next. -/
def placeWord (s : State) (op : Word) : State :=
  { s with
    pc := if fetchLimit.toNat < s.pc.toNat then BitVec.ofNat 16 Config.programBase else s.pc
    mem :=
      let a := if fetchLimit.toNat < s.pc.toNat then Config.programBase else s.pc.toNat
      memWrite s.font (memWrite s.font s.mem a (highByte op)) (a + 1) (lowByte op)
    pending := none
    fault := none
    romLoadable := false
    schedule :=
      match s.schedule with
      | [] => []
      | .cycle :: rest => .cycle :: rest
      | other => .cycle :: other }

end Sys2Proof.Machine
end

