-- ==== Sys2Proof/Machine/Step.lean ====
section
/-! DEFINITION. One step of the machine, and the placing of one instruction for it to run. -/

namespace Sys2Proof.Machine

/-- One atomic step (spec/00_scope.md R10, 20_memory.md R59). -/
def step (s : State) : Host.Outcome State Fault Refusal := nextStep s

/-- `s` with the table's word stored where the next step fetches (log 9). -/
def State.withFetchWord (s : State) (nbits w : Nat) : State := placeWord s (tableOpcode nbits w)

end Sys2Proof.Machine
end

