-- ==== Sys2Proof/Machine/Ports.lean ====
section
/-! DEFINITION. The output ports (spec/60_exceptions.md R173) as functions of the state, and R36's packing of SP. The report port
`unk_valid`, `unk_op` is `State.reports` (R163, log 7). `pending_idx` has no value while `pending_valid` is 0 (log 16). -/

namespace Sys2Proof.Machine

/-- `fb_q`: the pixel `FB[fb_y][fb_x]` (R176). -/
def State.fbQ (s : State) (x : BitVec 6) (y : BitVec 5) : Bool := pixel s.fb y.toFin x.toFin

/-- `dirty` (R31). -/
def State.dirtyPort (s : State) : Bool := s.dirty

/-- `audio` (R171). -/
def State.audioPort (s : State) : Bool := s.audio

/-- `pending_valid` and, when it is 1, `pending_idx` (R33). -/
def State.pendingPort (s : State) : Option RegIdx := s.pending

/-- `fault`: the code, 0 = none (R36, R160). -/
def State.faultPort (s : State) : BitVec 2 :=
  match s.fault with
  | none => 0#2
  | some f => faultNumber f

/-- SP as the 5 bits of R36. -/
def State.spBits (s : State) : BitVec 5 := BitVec.ofNat 5 s.sp.val

end Sys2Proof.Machine
end

