-- ==== Sys2Proof/Safety.lean ====
section
/-! DEFINITION. What claims are stated in: no fault, the machine's invariant, and which parts of two states are the same. -/

namespace Sys2Proof.Machine

/-- No fault has been raised (spec/60_exceptions.md R166: no claim is made about a faulted run but that FAULT is set). -/
def State.safe (s : State) : Prop := s.fault = none

/-- Every byte of memory reads the same. -/
def SameBytes (s t : State) : Prop := ∀ a : Addr, t.readMem a = s.readMem a

/-- Every V register reads the same. -/
def SameRegs (s t : State) : Prop := ∀ r : RegIdx, t.getV r = s.getV r

/-- Nothing but PC differs, read through the registers and memory too. -/
def OnlyPc (s t : State) : Prop := t = { s with pc := t.pc } ∧ SameRegs s t ∧ SameBytes s t

/-- Nothing but V and PC differs; every byte of memory reads the same. -/
def OnlyRegsPc (s t : State) : Prop := t = { s with v := t.v, pc := t.pc } ∧ SameBytes s t

/-- Nothing but I and PC differs, read through the registers and memory too. -/
def OnlyIPc (s t : State) : Prop := t = { s with i := t.i, pc := t.pc } ∧ SameRegs s t ∧ SameBytes s t

/-- The environment's next step is a cycle step: it asked for one, or for nothing (log 1). -/
def State.cycleNext (s : State) : Bool :=
  match s.schedule with
  | [] => true
  | .cycle :: _ => true
  | _ => false

/-- The state in which a cycle step executes its instruction: the environment's entry taken, the ROM load window closed. -/
def State.entering (s : State) : State := { s with schedule := s.schedule.tail, romLoadable := false }

/-- The pixel (px, py) is in the set M of 43_display.md R143: a set bit of one of the `n` sprite bytes at EA(0), EA(1), ...
selects it, for a sprite at column x0, row y0. -/
def InSprite (s : State) (x0 y0 : Byte) (n : Nat) (py : Fin Config.height) (px : Fin Config.width) : Prop :=
  ∃ r c : Nat, r < n ∧ c < 8 ∧ (s.readMem (s.ea r)).getLsbD (7 - c) = true ∧
    py.val = (y0.toNat + r) % 32 ∧ px.val = (x0.toNat + c) % 64

/-- The instructions that may write V[r], as the table of 10_state.md R21 lists them. -/
def mayWriteV : Instr → RegIdx → Bool
  | .ldImm x _, r | .addImm x _, r | .ldReg x _, r | .orReg x _, r | .andReg x _, r | .xorReg x _, r => r == x
  | .rnd x _, r | .ldVxDt x, r => r == x
  | .addReg x _, r | .subReg x _, r | .subnReg x _, r | .shr x _, r | .shl x _, r => r == x || r == 15#4
  | .drw _ _ _, r => r == 15#4
  | .ldVxMem x, r => decide (r.toNat ≤ x.toNat)
  | _, _ => false

/-- The instructions that read or write DT or write ST (60_exceptions.md R165). -/
def touchesTimers : Instr → Bool
  | .ldVxDt _ | .ldDtVx _ | .ldStVx _ => true
  | _ => false

/-- The PC law (40_flow.md R91): what PC is after an instruction, when it raises no fault. -/
def pcAfter (s : State) : Instr → Word
  | .seImm x kk => if s.getV x = kk then s.pc + 4 else s.pc + 2
  | .sneImm x kk => if s.getV x = kk then s.pc + 2 else s.pc + 4
  | .seReg x y _ => if s.getV x = s.getV y then s.pc + 4 else s.pc + 2
  | .sneReg x y _ => if s.getV x = s.getV y then s.pc + 2 else s.pc + 4
  | .skp x => if s.keys.getLsbD ((s.getV x).toNat % 16) = true then s.pc + 4 else s.pc + 2
  | .sknp x => if s.keys.getLsbD ((s.getV x).toNat % 16) = true then s.pc + 2 else s.pc + 4
  | .jp nnn | .call nnn => BitVec.ofNat 16 nnn.toNat
  | .jpV0 nnn => BitVec.ofNat 16 (nnn.toNat + (s.getV 0).toNat)
  | .ret => s.stack.getD (s.sp.val - 1) 0 + 2
  | _ => s.pc + 2

/-- The highest value an instruction can leave in PC (spec/10_state.md R23). -/
def pcBound : Nat := 0x10FE

/-- What every step keeps: the memory's canonical form; FAULT and PENDING never both set (60_exceptions.md R169); PC at most
0x10FE (10_state.md R23); every live stack entry a PC that passed the fetch check (40_flow.md R92); and while the ROM load may
still come, a machine that has not run (60_exceptions.md R174). -/
structure State.Inv (s : State) : Prop where
  memory : s.memWf = true
  latches : s.fault = none ∨ s.pending = none
  pcBounded : s.pc.toNat ≤ pcBound
  liveEntries : ∀ j : Fin Config.stackDepth, j.val < s.sp.val → s.stack[j.val].toNat ≤ 0xFFE
  notStarted : s.romLoadable = true →
    s.pc = BitVec.ofNat 16 Config.programBase ∧ s.sp.val = 0 ∧ s.fault = none ∧ s.pending = none ∧ s.mem = []

end Sys2Proof.Machine
end

