-- ==== Sys2Proof/Certificates/Slice0/Obligations.lean ====
section
/-! DEFINITION. The statements for the provers. A statement's docstring cites the rule or section it formalises. "spec's decision
D<n>" and "general knowledge" are the spec's own marks on a passage (spec/92_eei_decisions.md, 93_implementation_defined.md);
"log <n>" is a choice of the model. An instruction's statement says what `exec` answers, for every state and every operand,
and its frame; the encodings have their own statements. -/

open Sys2Proof Sys2Proof.Machine

/-! ## Register load, arithmetic, logic, shifts, random (spec/41_alu.md) -/

/-- R112, LD Vx,kk: V[x] is kk, PC moves by 2, VF changes only when x = 15; no fault. -/
def Obligations.LoadImmediateWritesVx : Prop :=
  ∀ (s : State) (x : RegIdx) (kk : Byte), ∃ t, exec (.ldImm x kk) s = .next t ∧
    (∀ r, t.getV r = if r = x then kk else s.getV r) ∧ t.pc = s.pc + 2 ∧ OnlyRegsPc s t

/-- R113, ADD Vx,kk: the sum modulo 256; no flag is written. -/
def Obligations.AddImmediateWrapsWithoutFlag : Prop :=
  ∀ (s : State) (x : RegIdx) (kk : Byte), ∃ t, exec (.addImm x kk) s = .next t ∧
    (t.getV x).toNat = ((s.getV x).toNat + kk.toNat) % 256 ∧
    (∀ r, r ≠ x → t.getV r = s.getV r) ∧ t.pc = s.pc + 2 ∧ OnlyRegsPc s t

/-- R114, LD Vx,Vy: V[x] is V[y]; VF changes only when x = 15. -/
def Obligations.AssignCopiesVyToVx : Prop :=
  ∀ (s : State) (x y : RegIdx), ∃ t, exec (.ldReg x y) s = .next t ∧
    (∀ r, t.getV r = if r = x then s.getV y else s.getV r) ∧ t.pc = s.pc + 2 ∧ OnlyRegsPc s t

/-- OR, AND and XOR Vx,Vy, bit by bit; VF is unchanged unless x = 15, the spec's decision D14. -/
def Obligations.LogicOpsWriteVxOnly : Prop :=
  ∀ (s : State) (x y : RegIdx),
    (∃ t, exec (.orReg x y) s = .next t ∧
      (∀ k, (t.getV x).getLsbD k = ((s.getV x).getLsbD k || (s.getV y).getLsbD k)) ∧
      (∀ r, r ≠ x → t.getV r = s.getV r) ∧ t.pc = s.pc + 2 ∧ OnlyRegsPc s t) ∧
    (∃ t, exec (.andReg x y) s = .next t ∧
      (∀ k, (t.getV x).getLsbD k = ((s.getV x).getLsbD k && (s.getV y).getLsbD k)) ∧
      (∀ r, r ≠ x → t.getV r = s.getV r) ∧ t.pc = s.pc + 2 ∧ OnlyRegsPc s t) ∧
    (∃ t, exec (.xorReg x y) s = .next t ∧
      (∀ k, (t.getV x).getLsbD k = ((s.getV x).getLsbD k != (s.getV y).getLsbD k)) ∧
      (∀ r, r ≠ x → t.getV r = s.getV r) ∧ t.pc = s.pc + 2 ∧ OnlyRegsPc s t)

/-- R118, ADD Vx,Vy: V[x] is the sum modulo 256 unless x = 15; VF is 1 exactly when the sum exceeds 255, written last. -/
def Obligations.AddRegistersSetsCarry : Prop :=
  ∀ (s : State) (x y : RegIdx), ∃ t, exec (.addReg x y) s = .next t ∧
    (x ≠ 15#4 → (t.getV x).toNat = ((s.getV x).toNat + (s.getV y).toNat) % 256) ∧
    t.getV 15#4 = (if (s.getV x).toNat + (s.getV y).toNat > 255 then 1 else 0) ∧
    (∀ r, r ≠ x → r ≠ 15#4 → t.getV r = s.getV r) ∧ t.pc = s.pc + 2 ∧ OnlyRegsPc s t

/-- R119, SUB Vx,Vy: V[x] is V[x] - V[y] modulo 256 unless x = 15; VF is 1 exactly when V[x] > V[y], so 0 at equality. -/
def Obligations.SubtractSetsGreater : Prop :=
  ∀ (s : State) (x y : RegIdx), ∃ t, exec (.subReg x y) s = .next t ∧
    (x ≠ 15#4 → (t.getV x).toNat = ((s.getV x).toNat + 256 - (s.getV y).toNat) % 256) ∧
    t.getV 15#4 = (if (s.getV x).toNat > (s.getV y).toNat then 1 else 0) ∧
    (∀ r, r ≠ x → r ≠ 15#4 → t.getV r = s.getV r) ∧ t.pc = s.pc + 2 ∧ OnlyRegsPc s t

/-- R120, SUBN Vx,Vy: V[x] is V[y] - V[x] modulo 256 unless x = 15; VF is 1 exactly when V[y] > V[x]. -/
def Obligations.SubtractReversedSetsGreater : Prop :=
  ∀ (s : State) (x y : RegIdx), ∃ t, exec (.subnReg x y) s = .next t ∧
    (x ≠ 15#4 → (t.getV x).toNat = ((s.getV y).toNat + 256 - (s.getV x).toNat) % 256) ∧
    t.getV 15#4 = (if (s.getV y).toNat > (s.getV x).toNat then 1 else 0) ∧
    (∀ r, r ≠ x → r ≠ 15#4 → t.getV r = s.getV r) ∧ t.pc = s.pc + 2 ∧ OnlyRegsPc s t

/-- R121, SHR Vx: V[x] div 2 unless x = 15; VF is the original bit 0; V[y] plays no part, whatever y is. -/
def Obligations.ShiftRightIgnoresVy : Prop :=
  ∀ (s : State) (x y : RegIdx), ∃ t, exec (.shr x y) s = .next t ∧
    (x ≠ 15#4 → (t.getV x).toNat = (s.getV x).toNat / 2) ∧
    (t.getV 15).toNat = (s.getV x).toNat % 2 ∧
    (∀ r, r ≠ x → r ≠ 15#4 → t.getV r = s.getV r) ∧ t.pc = s.pc + 2 ∧ OnlyRegsPc s t

/-- R122, SHL Vx: V[x] * 2 modulo 256 unless x = 15; VF is the original bit 7; V[y] plays no part, whatever y is. -/
def Obligations.ShiftLeftIgnoresVy : Prop :=
  ∀ (s : State) (x y : RegIdx), ∃ t, exec (.shl x y) s = .next t ∧
    (x ≠ 15#4 → (t.getV x).toNat = (s.getV x).toNat * 2 % 256) ∧
    (t.getV 15).toNat = (s.getV x).toNat / 128 ∧
    (∀ r, r ≠ x → r ≠ 15#4 → t.getV r = s.getV r) ∧ t.pc = s.pc + 2 ∧ OnlyRegsPc s t

/-- RND Vx,kk: one draw of the RAND input, ANDed with kk. The drawn byte is the free value Config.rand (log 4; the spec's decision
D20), and the statement holds whatever it is. -/
def Obligations.RandomIsMaskedDraw : Prop :=
  ∀ (s : State) (x : RegIdx) (kk : Byte), ∃ t, exec (.rnd x kk) s = .next t ∧
    (∀ r, t.getV r = if r = x then Config.rand s.draws &&& kk else s.getV r) ∧
    (∀ k, kk.getLsbD k = false → (t.getV x).getLsbD k = false) ∧
    t.pc = s.pc + 2 ∧ t.draws = s.draws + 1 ∧
    t = { s with v := t.v, pc := t.pc, draws := t.draws } ∧ SameBytes s t

/-! ## Address register, loads and stores (spec/42_index_memory.md) -/

/-- R131, LD I,nnn. -/
def Obligations.SetAddressRegister : Prop :=
  ∀ (s : State) (nnn : Addr), ∃ t, exec (.ldI nnn) s = .next t ∧
    t.i.toNat = nnn.toNat ∧ t.pc = s.pc + 2 ∧ OnlyIPc s t

/-- ADD I,Vx (42_index_memory.md section 2): modulo 65536, no flag. -/
def Obligations.AddToAddressRegister : Prop :=
  ∀ (s : State) (x : RegIdx), ∃ t, exec (.addI x) s = .next t ∧
    t.i.toNat = (s.i.toNat + (s.getV x).toNat) % 65536 ∧ t.pc = s.pc + 2 ∧ OnlyIPc s t

/-- LD F,Vx: five times the whole byte, not its low nibble, the spec's decision D28; no memory access. -/
def Obligations.FontCharacterAddress : Prop :=
  ∀ (s : State) (x : RegIdx), ∃ t, exec (.ldF x) s = .next t ∧
    t.i.toNat = (s.getV x).toNat * 5 ∧ t.pc = s.pc + 2 ∧ OnlyIPc s t

/-- R134, LD B,Vx: hundreds, tens, units at EA(0), EA(1), EA(2); no other byte, no register and not I. -/
def Obligations.BcdStoreWritesThreeDigits : Prop :=
  ∀ (s : State) (x : RegIdx), ∃ t, exec (.ldB x) s = .next t ∧
    (t.readMem (s.ea 0)).toNat = (s.getV x).toNat / 100 ∧
    (t.readMem (s.ea 1)).toNat = (s.getV x).toNat / 10 % 10 ∧
    (t.readMem (s.ea 2)).toNat = (s.getV x).toNat % 10 ∧
    (∀ a : Addr, a ≠ s.ea 0 → a ≠ s.ea 1 → a ≠ s.ea 2 → t.readMem a = s.readMem a) ∧
    t.pc = s.pc + 2 ∧ t = { s with mem := t.mem, pc := t.pc } ∧ SameRegs s t

/-- LD [I],Vx: V[0]..V[x] inclusive at EA(0)..EA(x), no other byte; I unchanged, the spec's decision D27. -/
def Obligations.RegisterDumpWritesV0ToVx : Prop :=
  ∀ (s : State) (x : RegIdx), ∃ t, exec (.ldMemVx x) s = .next t ∧
    (∀ r : RegIdx, r.toNat ≤ x.toNat → t.readMem (s.ea r.toNat) = s.getV r) ∧
    (∀ a : Addr, (∀ k : Nat, k ≤ x.toNat → a ≠ s.ea k) → t.readMem a = s.readMem a) ∧
    t.pc = s.pc + 2 ∧ t = { s with mem := t.mem, pc := t.pc } ∧ SameRegs s t

/-- LD Vx,[I]: V[0]..V[x] inclusive from EA(0)..EA(x), no other register; I unchanged, the spec's decision D27. -/
def Obligations.RegisterLoadReadsV0ToVx : Prop :=
  ∀ (s : State) (x : RegIdx), ∃ t, exec (.ldVxMem x) s = .next t ∧
    (∀ r : RegIdx, t.getV r = if r.toNat ≤ x.toNat then s.readMem (s.ea r.toNat) else s.getV r) ∧
    t.pc = s.pc + 2 ∧ OnlyRegsPc s t

/-- The round trip, which the spec marks as derived (42_index_memory.md section 4): a load from where a dump stored, the stored
bytes untouched in between, gives V[0]..V[x] back, for any x and any I, the wrap at 4096 included. -/
def Obligations.DumpThenLoadRestoresRegisters : Prop :=
  ∀ (s t u w : State) (x : RegIdx), exec (.ldMemVx x) s = .next t →
    (∀ k : Nat, k ≤ x.toNat → u.ea k = s.ea k ∧ u.readMem (s.ea k) = t.readMem (s.ea k)) →
    exec (.ldVxMem x) u = .next w → ∀ r : RegIdx, r.toNat ≤ x.toNat → w.getV r = s.getV r

/-! ## Display (spec/43_display.md) -/

/-- CLS: every pixel 0, DIRTY 1 whether or not a pixel changed, the spec's decision D23. -/
def Obligations.ClearDisplayBlanksEveryPixel : Prop :=
  ∀ s : State, ∃ t, exec .cls s = .next t ∧ (∀ py px, pixel t.fb py px = false) ∧ t.dirty = true ∧
    t.pc = s.pc + 2 ∧ t = { s with fb := t.fb, dirty := t.dirty, pc := t.pc } ∧ SameRegs s t ∧ SameBytes s t

/-- DRW Vx,Vy,n: every pixel of the sprite's set M is inverted, every other one unchanged, VF is 1 exactly when a pixel of M was
set before, DIRTY is 1. Wrap, bit order, sampling before VF is reset and the unconditional DIRTY are the spec's decisions D10,
D11, D12, D23. -/
def Obligations.DrawSpriteInvertsItsPixels : Prop :=
  ∀ (s : State) (x y : RegIdx) (n : BitVec 4), ∃ t, exec (.drw x y n) s = .next t ∧
    (∀ py px, (InSprite s (s.getV x) (s.getV y) n.toNat py px → pixel t.fb py px = !pixel s.fb py px) ∧
      (¬ InSprite s (s.getV x) (s.getV y) n.toNat py px → pixel t.fb py px = pixel s.fb py px)) ∧
    ((∃ py px, InSprite s (s.getV x) (s.getV y) n.toNat py px ∧ pixel s.fb py px = true) → t.getV 15#4 = 1) ∧
    ((¬ ∃ py px, InSprite s (s.getV x) (s.getV y) n.toNat py px ∧ pixel s.fb py px = true) → t.getV 15#4 = 0) ∧
    (∀ r, r ≠ 15#4 → t.getV r = s.getV r) ∧ t.dirty = true ∧ t.pc = s.pc + 2 ∧
    t = { s with v := t.v, fb := t.fb, dirty := t.dirty, pc := t.pc } ∧ SameBytes s t

/-- The law the spec derives in 43_display.md section 2: the same sprite drawn twice at the same coordinates restores the
framebuffer, and the second draw sets VF exactly when some pixel of M was 0 before the first. Neither coordinate register is VF,
which the first draw writes. -/
def Obligations.DrawTwiceRestoresFrame : Prop :=
  ∀ (s t u : State) (x y : RegIdx) (n : BitVec 4), x ≠ 15#4 → y ≠ 15#4 →
    exec (.drw x y n) s = .next t → exec (.drw x y n) t = .next u →
    u.fb = s.fb ∧
    (u.getV 15#4 = 1 ↔ ∃ py px, InSprite s (s.getV x) (s.getV y) n.toNat py px ∧ pixel s.fb py px = false)

/-! ## Keys and timers (spec/44_keys_timers.md) -/

/-- SKP Vx and SKNP Vx: the key is the low 4 bits of V[x], the spec's decision D16. -/
def Obligations.KeySkipsTestLowNibble : Prop :=
  ∀ (s : State) (x : RegIdx),
    (∃ t, exec (.skp x) s = .next t ∧ OnlyPc s t ∧
      t.pc = if s.keys.getLsbD ((s.getV x).toNat % 16) = true then s.pc + 4 else s.pc + 2) ∧
    (∃ t, exec (.sknp x) s = .next t ∧ OnlyPc s t ∧
      t.pc = if s.keys.getLsbD ((s.getV x).toNat % 16) = false then s.pc + 4 else s.pc + 2)

/-- LD Vx,DT (44_keys_timers.md section 2). -/
def Obligations.ReadDelayTimer : Prop :=
  ∀ (s : State) (x : RegIdx), ∃ t, exec (.ldVxDt x) s = .next t ∧
    (∀ r, t.getV r = if r = x then s.dt else s.getV r) ∧ t.pc = s.pc + 2 ∧ OnlyRegsPc s t

/-- LD Vx,K: PENDING is x and PC moves on at once; no register is written, and from then on a cycle step changes nothing. -/
def Obligations.AwaitKeySetsPending : Prop :=
  ∀ (s : State) (x : RegIdx), ∃ t, exec (.ldVxK x) s = .next t ∧
    t.pending = some x ∧ t.pc = s.pc + 2 ∧ t = { s with pending := t.pending, pc := t.pc } ∧
    SameRegs s t ∧ SameBytes s t ∧ cycleStep t = .next t

/-- R154, LD DT,Vx. -/
def Obligations.SetDelayTimer : Prop :=
  ∀ (s : State) (x : RegIdx), ∃ t, exec (.ldDtVx x) s = .next t ∧
    t.dt = s.getV x ∧ t.pc = s.pc + 2 ∧ t = { s with dt := t.dt, pc := t.pc } ∧ SameRegs s t ∧ SameBytes s t

/-- LD ST,Vx: AUDIO does not change at this step. -/
def Obligations.SetSoundTimerLeavesAudio : Prop :=
  ∀ (s : State) (x : RegIdx), ∃ t, exec (.ldStVx x) s = .next t ∧
    t.st = s.getV x ∧ t.audio = s.audio ∧ t.pc = s.pc + 2 ∧ t = { s with st := t.st, pc := t.pc } ∧
    SameRegs s t ∧ SameBytes s t

/-! ## Control transfer (spec/40_flow.md) -/

/-- R96 to R99: the four skips on registers, whatever the ignored low nibble of SE Vx,Vy and SNE Vx,Vy is. A PC above 0xFFE that
a skip leaves makes the next cycle step raise PcOutOfRange. -/
def Obligations.RegisterSkipsAdvanceByFourOrTwo : Prop :=
  ∀ (s : State) (x y : RegIdx) (kk : Byte) (lo : BitVec 4),
    (∃ t, exec (.seImm x kk) s = .next t ∧ OnlyPc s t ∧
      t.pc = if s.getV x = kk then s.pc + 4 else s.pc + 2) ∧
    (∃ t, exec (.sneImm x kk) s = .next t ∧ OnlyPc s t ∧
      t.pc = if s.getV x ≠ kk then s.pc + 4 else s.pc + 2) ∧
    (∃ t, exec (.seReg x y lo) s = .next t ∧ OnlyPc s t ∧
      t.pc = if s.getV x = s.getV y then s.pc + 4 else s.pc + 2) ∧
    (∃ t, exec (.sneReg x y lo) s = .next t ∧ OnlyPc s t ∧
      t.pc = if s.getV x ≠ s.getV y then s.pc + 4 else s.pc + 2) ∧
    (s.fault = none → s.pending = none → s.pc = 0xFFE → ∀ i t, exec i s = .next t →
      i = .seImm x kk ∨ i = .sneImm x kk ∨ i = .seReg x y lo ∨ i = .sneReg x y lo →
      ∃ u, cycleStep t = .next u ∧ u.fault = some .pcOutOfRange)

/-- R94, JP nnn: any 12-bit target, odd or even; 0xFFF makes the next cycle step raise PcOutOfRange. -/
def Obligations.JumpSetsPc : Prop :=
  ∀ (s : State) (nnn : Addr), ∃ t, exec (.jp nnn) s = .next t ∧ t.pc.toNat = nnn.toNat ∧ OnlyPc s t ∧
    (nnn = 0xFFF → s.fault = none → s.pending = none → ∃ u, cycleStep t = .next u ∧ u.fault = some .pcOutOfRange)

/-- JP V0,nnn: the unmasked 16-bit sum of nnn and V[0], the spec's decision D34; never another register. -/
def Obligations.JumpWithOffsetAddsV0 : Prop :=
  ∀ (s : State) (nnn : Addr), ∃ t, exec (.jpV0 nnn) s = .next t ∧
    t.pc.toNat = nnn.toNat + (s.getV 0).toNat ∧ OnlyPc s t

/-- CALL nnn with SP below 16: the CALL's own address is pushed, SP grows by 1, PC is nnn. -/
def Obligations.CallPushesOwnAddress : Prop :=
  ∀ (s : State) (nnn : Addr), s.sp.val < 16 → ∃ t, exec (.call nnn) s = .next t ∧
    t.sp.val = s.sp.val + 1 ∧
    (∀ j : Fin 16, t.stack[j.val] = if j.val = s.sp.val then s.pc else s.stack[j.val]) ∧
    t.pc.toNat = nnn.toNat ∧ t = { s with stack := t.stack, sp := t.sp, pc := t.pc } ∧ SameRegs s t ∧ SameBytes s t

/-- RET with SP above 0: SP shrinks by 1, PC is the popped entry plus 2, the stack keeps its content. -/
def Obligations.ReturnPopsAndAddsTwo : Prop :=
  ∀ (s : State) (j : Fin 16), s.sp.val = j.val + 1 → ∃ t, exec .ret s = .next t ∧
    t.sp.val = j.val ∧ t.pc = s.stack[j.val] + 2 ∧ t = { s with sp := t.sp, pc := t.pc } ∧ SameRegs s t ∧ SameBytes s t

/-- CALL at SP = 16 and RET at SP = 0 set FAULT and change nothing else, the spec's decision D6 (fault entry, 60_exceptions.md
section 4; log 6). -/
def Obligations.StackMisuseSetsOnlyFault : Prop :=
  (∀ (s : State) (nnn : Addr), s.sp.val = 16 → exec (.call nnn) s = .next { s with fault := some .stackOverflow }) ∧
  (∀ s : State, s.sp.val = 0 → exec .ret s = .next { s with fault := some .stackUnderflow })

/-- RET undoes CALL: from a CALL at depth below 16, a RET in any later state with the same stack and depth goes to the
instruction after the CALL and gives the depth back. -/
def Obligations.ReturnGoesAfterItsCall : Prop :=
  ∀ (s t u w : State) (nnn : Addr), s.sp.val < 16 → exec (.call nnn) s = .next t →
    u.stack = t.stack → u.sp = t.sp → exec .ret u = .next w → w.pc = s.pc + 2 ∧ w.sp = s.sp

/-- The PC law (40_flow.md section 1): every instruction that raises no fault leaves in PC what the PC law says, UNKNOWN included; one that raises a fault leaves
PC alone. -/
def Obligations.PcLawHoldsOfEveryInstruction : Prop :=
  (∀ (i : Instr) (s t : State), exec i s = .next t → t.fault = s.fault →
    (i = .ret → s.sp.val ≠ 0) → (∀ nnn, i = .call nnn → s.sp.val ≠ 16) → t.pc = pcAfter s i) ∧
  (∀ (i : Instr) (s t : State), exec i s = .next t → t.fault ≠ s.fault → t.pc = s.pc) ∧
  (∀ (op : Word) (s t : State), execUnknown op s = .next t → t.pc = s.pc + 2)

/-! ## The cycle step (spec/40_flow.md section 1) -/

/-- A step runs the instruction that the bytes at PC decode to, when a cycle step is next, neither latch is set and PC is at
most 0xFFE: it is `exec` of it, on the state with the environment's entry taken and the ROM load window closed (log 1, 8). -/
def Obligations.StepRunsDecodedInstruction : Prop :=
  ∀ (s : State) (i : Instr), s.cycleNext = true → s.fault = none → s.pending = none → s.pc.toNat ≤ 0xFFE →
    decodeBytes [s.readMem (BitVec.ofNat 12 s.pc.toNat), s.readMem (BitVec.ofNat 12 (s.pc.toNat + 1))] = .ok (i, []) →
    step s = exec i s.entering

/-- An UNKNOWN opcode is reported, PC moves by 2 and nothing else changes; it is no fault (the report list is log 7). -/
def Obligations.UnknownOpcodeIsReportedNoOp : Prop :=
  ∀ (s : State) (op : Word), s.cycleNext = true → s.fault = none → s.pending = none → s.pc.toNat ≤ 0xFFE →
    decodeBytes [s.readMem (BitVec.ofNat 12 s.pc.toNat), s.readMem (BitVec.ofNat 12 (s.pc.toNat + 1))] =
      .error (.unknownOpcode op) →
    step s = .next { s.entering with pc := s.pc + 2, reports := op :: s.reports }

/-- A cycle step while FAULT or PENDING is set changes nothing but the environment's own entry (log 1, 6; the spec's decisions D6,
D25). -/
def Obligations.StalledCycleStepChangesNothing : Prop :=
  ∀ s : State, s.cycleNext = true → s.fault ≠ none ∨ s.pending ≠ none →
    step s = .next { s with schedule := s.schedule.tail }

/-- A cycle step with PC above 0xFFE raises PcOutOfRange and changes nothing else, the spec's decision D7 (the schedule is log 1; the
latch as a next state, log 6). -/
def Obligations.PcBeyondMemoryFaults : Prop :=
  ∀ s : State, s.cycleNext = true → s.fault = none → s.pending = none → 0xFFE < s.pc.toNat →
    step s = .next { s with schedule := s.schedule.tail, fault := some .pcOutOfRange }

/-- Faults are precise (60_exceptions.md section 1, the spec's decision D6; the latch as a next state, log 6): a cycle step that sets FAULT writes nothing else of the
block, and it is one of the three cases of the fault table. -/
def Obligations.FaultingStepWritesOnlyFault : Prop :=
  ∀ s t : State, s.fault = none → cycleStep s = .next t → t.fault ≠ none →
    t = { s with fault := t.fault, romLoadable := t.romLoadable } ∧
    ((t.fault = some .pcOutOfRange ∧ 0xFFE < s.pc.toNat) ∨
     (t.fault = some .stackOverflow ∧ s.pc.toNat ≤ 0xFFE ∧ s.sp.val = 16 ∧ ∃ nnn, decode s.fetch = .instr (.call nnn)) ∨
     (t.fault = some .stackUnderflow ∧ s.pc.toNat ≤ 0xFFE ∧ s.sp.val = 0 ∧ decode s.fetch = .instr .ret))

/-- A store is seen by the fetch of the very next cycle step (20_memory.md section 7, derived there): after LD [I],Vx the opcode
fetched at an address in the dump is made of the registers stored there, V[k] its high byte and V[k+1] its low byte. -/
def Obligations.StoreIsSeenByNextFetch : Prop :=
  ∀ (s t : State) (x k : RegIdx), k.toNat + 1 ≤ x.toNat → exec (.ldMemVx x) s = .next t →
    s.i.toNat + k.toNat = t.pc.toNat → t.pc.toNat ≤ 0xFFE →
    t.fetch = opcodeOfBytes (s.getV k) (s.getV (BitVec.ofNat 4 (k.toNat + 1)))

/-! ## The whole instruction set -/

/-- All instructions are available at all times, in every state (44_keys_timers.md section 5, derived there). A CALL at SP = 16 and a
RET at SP = 0 raise a fault (40_flow.md section 2, 60_exceptions.md section 4): that `exec` answers a next state there too, the one
with FAULT set, is the model's way of holding the latch (log 6, DEDUCED). -/
def Obligations.EveryInstructionAnswersNext : Prop :=
  ∀ (i : Instr) (s : State), ∃ t, exec i s = .next t

/-- A V register is written only by the instructions that the access table of 10_state.md section 1 lists for it. -/
def Obligations.OnlyListedInstructionsWriteV : Prop :=
  ∀ (i : Instr) (s t : State) (r : RegIdx), exec i s = .next t → mayWriteV i r = false → t.getV r = s.getV r

/-- Who writes what (10_state.md sections 4 to 10, 20_memory.md section 1): I, STACK and SP, DT, ST, MEM, FB and DIRTY, PENDING each
change only by the instructions named for them; FONT, KEYS, AUDIO and what is the environment's change by none. -/
def Obligations.OnlyNamedInstructionsWriteState : Prop :=
  ∀ (i : Instr) (s t : State), exec i s = .next t →
    (t.i = s.i ∨ (∃ nnn, i = .ldI nnn) ∨ (∃ x, i = .addI x) ∨ (∃ x, i = .ldF x)) ∧
    (t.stack = s.stack ∨ ∃ nnn, i = .call nnn) ∧
    (t.sp = s.sp ∨ i = .ret ∨ ∃ nnn, i = .call nnn) ∧
    (t.dt = s.dt ∨ ∃ x, i = .ldDtVx x) ∧
    (t.st = s.st ∨ ∃ x, i = .ldStVx x) ∧
    (SameBytes s t ∨ (∃ x, i = .ldB x) ∨ (∃ x, i = .ldMemVx x)) ∧
    ((t.fb = s.fb ∧ t.dirty = s.dirty) ∨ i = .cls ∨ ∃ x y n, i = .drw x y n) ∧
    (t.pending = s.pending ∨ ∃ x, i = .ldVxK x) ∧
    (t.fault = s.fault ∨ i = .ret ∨ ∃ nnn, i = .call nnn) ∧
    (t.draws = s.draws ∨ ∃ x kk, i = .rnd x kk) ∧
    t.font = s.font ∧ t.keys = s.keys ∧ t.audio = s.audio ∧ t.audioDue = s.audioDue ∧ t.romLoadable = s.romLoadable ∧
    t.reports = s.reports ∧ t.schedule = s.schedule

/-- Only I modulo 4096 matters (10_state.md section 4, derived there): two states that differ only above bit 11 of I answer every
instruction with states that again differ only there. -/
def Obligations.HighBitsOfIAreUnobservable : Prop :=
  ∀ (i : Instr) (s t : State) (w : Word), w.toNat % 4096 = s.i.toNat % 4096 → exec i s = .next t →
    ∃ w' : Word, w'.toNat % 4096 = t.i.toNat % 4096 ∧ exec i { s with i := w } = .next { t with i := w' }

/-- A tick step and a cycle step commute unless the instruction reads or writes DT or writes ST, and an audio update commutes with
every cycle step (60_exceptions.md section 3, derived there). -/
def Obligations.TickCommutesWithCycle : Prop :=
  ∀ s t : State, cycleStep s = .next t →
    ((∀ i, decode s.fetch = .instr i → touchesTimers i = false) → cycleStep (tickStep s) = .next (tickStep t)) ∧
    (∀ v : Byte, cycleStep (audioUpdate s v) = .next (audioUpdate t v))

/-! ## Encoding (spec/30_encoding.md) -/

/-- Ten words of families 0, 2, 3, 5, 8, B, D, E and F and what they decode to, from the spec's decode vectors (95_test_vectors.md
section 2.1: E1, E6, E8, E9, E12, E15, E20, E22, E24, E26; numeric patterns are the spec's general knowledge G1, log 14; the
ignored nibble of 0x5ABF as an operand: log 11). -/
def Obligations.SampleWordsDecode : Prop :=
  decode 0x00E0 = .instr .cls ∧ decode 0x2FFF = .instr (.call 0xFFF) ∧ decode 0x3A7B = .instr (.seImm 10 0x7B) ∧
  decode 0x5ABF = .instr (.seReg 10 11 15) ∧ decode 0x8AB7 = .instr (.subnReg 10 11) ∧
  decode 0xB123 = .instr (.jpV0 0x123) ∧ decode 0xD12F = .instr (.drw 1 2 15) ∧ decode 0xE1A1 = .instr (.sknp 1) ∧
  decode 0xF155 = .instr (.ldMemVx 1) ∧ decode 0x0123 = .unknown 0x0123

/-- Every pattern of 30_encoding.md section 3 (numeric patterns from general knowledge, G1; field places G2; log 14) decodes to its
instruction with its fields, at every value of every field. That an ignored field is an operand is the model's choice (log 11). -/
def Obligations.EveryPatternDecodes : Prop :=
  decode 0x00E0 = .instr .cls ∧ decode 0x00EE = .instr .ret ∧
  (∀ nnn : Addr, decode (BitVec.ofNat 16 (0x1000 + nnn.toNat)) = .instr (.jp nnn) ∧
    decode (BitVec.ofNat 16 (0x2000 + nnn.toNat)) = .instr (.call nnn) ∧
    decode (BitVec.ofNat 16 (0xA000 + nnn.toNat)) = .instr (.ldI nnn) ∧
    decode (BitVec.ofNat 16 (0xB000 + nnn.toNat)) = .instr (.jpV0 nnn)) ∧
  (∀ (x : RegIdx) (kk : Byte), decode (BitVec.ofNat 16 (0x3000 + x.toNat * 256 + kk.toNat)) = .instr (.seImm x kk) ∧
    decode (BitVec.ofNat 16 (0x4000 + x.toNat * 256 + kk.toNat)) = .instr (.sneImm x kk) ∧
    decode (BitVec.ofNat 16 (0x6000 + x.toNat * 256 + kk.toNat)) = .instr (.ldImm x kk) ∧
    decode (BitVec.ofNat 16 (0x7000 + x.toNat * 256 + kk.toNat)) = .instr (.addImm x kk) ∧
    decode (BitVec.ofNat 16 (0xC000 + x.toNat * 256 + kk.toNat)) = .instr (.rnd x kk)) ∧
  (∀ (x y : RegIdx) (n : BitVec 4),
    decode (BitVec.ofNat 16 (0x5000 + x.toNat * 256 + y.toNat * 16 + n.toNat)) = .instr (.seReg x y n) ∧
    decode (BitVec.ofNat 16 (0x9000 + x.toNat * 256 + y.toNat * 16 + n.toNat)) = .instr (.sneReg x y n) ∧
    decode (BitVec.ofNat 16 (0xD000 + x.toNat * 256 + y.toNat * 16 + n.toNat)) = .instr (.drw x y n)) ∧
  (∀ x y : RegIdx, decode (BitVec.ofNat 16 (0x8000 + x.toNat * 256 + y.toNat * 16)) = .instr (.ldReg x y) ∧
    decode (BitVec.ofNat 16 (0x8001 + x.toNat * 256 + y.toNat * 16)) = .instr (.orReg x y) ∧
    decode (BitVec.ofNat 16 (0x8002 + x.toNat * 256 + y.toNat * 16)) = .instr (.andReg x y) ∧
    decode (BitVec.ofNat 16 (0x8003 + x.toNat * 256 + y.toNat * 16)) = .instr (.xorReg x y) ∧
    decode (BitVec.ofNat 16 (0x8004 + x.toNat * 256 + y.toNat * 16)) = .instr (.addReg x y) ∧
    decode (BitVec.ofNat 16 (0x8005 + x.toNat * 256 + y.toNat * 16)) = .instr (.subReg x y) ∧
    decode (BitVec.ofNat 16 (0x8006 + x.toNat * 256 + y.toNat * 16)) = .instr (.shr x y) ∧
    decode (BitVec.ofNat 16 (0x8007 + x.toNat * 256 + y.toNat * 16)) = .instr (.subnReg x y) ∧
    decode (BitVec.ofNat 16 (0x800E + x.toNat * 256 + y.toNat * 16)) = .instr (.shl x y)) ∧
  (∀ x : RegIdx, decode (BitVec.ofNat 16 (0xE09E + x.toNat * 256)) = .instr (.skp x) ∧
    decode (BitVec.ofNat 16 (0xE0A1 + x.toNat * 256)) = .instr (.sknp x) ∧
    decode (BitVec.ofNat 16 (0xF007 + x.toNat * 256)) = .instr (.ldVxDt x) ∧
    decode (BitVec.ofNat 16 (0xF00A + x.toNat * 256)) = .instr (.ldVxK x) ∧
    decode (BitVec.ofNat 16 (0xF015 + x.toNat * 256)) = .instr (.ldDtVx x) ∧
    decode (BitVec.ofNat 16 (0xF018 + x.toNat * 256)) = .instr (.ldStVx x) ∧
    decode (BitVec.ofNat 16 (0xF01E + x.toNat * 256)) = .instr (.addI x) ∧
    decode (BitVec.ofNat 16 (0xF029 + x.toNat * 256)) = .instr (.ldF x) ∧
    decode (BitVec.ofNat 16 (0xF033 + x.toNat * 256)) = .instr (.ldB x) ∧
    decode (BitVec.ofNat 16 (0xF055 + x.toNat * 256)) = .instr (.ldMemVx x) ∧
    decode (BitVec.ofNat 16 (0xF065 + x.toNat * 256)) = .instr (.ldVxMem x))

/-- Decoding what the encoder wrote gives the instruction back, for every instruction and every value of its operands, the
ill-formed ones included; and through bytes too. The ignored bits are among the operands by the model's choice (log 11). -/
def Obligations.DecodeEncodeRoundTrip : Prop :=
  ∀ i : Instr, decode (encode i) = .instr i ∧
    ∀ rest, decodeBytes (highByte (encode i) :: lowByte (encode i) :: rest) = .ok (i, rest)

/-- The other direction: a word that decodes to an instruction is that instruction's encoding, every ignored bit included, so no
two words decode to the same instruction; an UNKNOWN carries its own opcode. That ignored bits are operands, on which this rests, is
the model's choice (log 11, DESIGN CHOICE): in the spec 0x5121 decodes exactly as 0x5120 (30_encoding.md section 1), and the
assembler writes 0 there (section 6). -/
def Obligations.EncodeDecodeRoundTrip : Prop :=
  ∀ op : Word, (∀ i, decode op = .instr i → encode i = op) ∧ (∀ w, decode op = .unknown w → w = op)

/-- The UNKNOWN words are exactly those of 30_encoding.md section 4, (a) to (d) (selectors: the spec's decisions D4, D5). -/
def Obligations.UnknownWordsAreExactlyTheListed : Prop :=
  ∀ op : Word, decode op = .unknown op ↔
    (op.toNat / 4096 = 0x0 ∧ op.toNat ≠ 0x00E0 ∧ op.toNat ≠ 0x00EE) ∨
    (op.toNat / 4096 = 0x8 ∧ op.toNat % 16 ∈ [0x8, 0x9, 0xA, 0xB, 0xC, 0xD, 0xF]) ∨
    (op.toNat / 4096 = 0xE ∧ op.toNat % 256 ∉ [0x9E, 0xA1]) ∨
    (op.toNat / 4096 = 0xF ∧ op.toNat % 256 ∉ [0x07, 0x0A, 0x15, 0x18, 0x1E, 0x29, 0x33, 0x55, 0x65])

/-! ## The other steps, reset and invariants (spec/60_exceptions.md, 70_reset_and_hazards.md, 10_state.md) -/

/-- The tick step (60_exceptions.md section 8; that the environment's schedule brings it is log 1, the actor's own order log 17): both timers minus 1, floor 0, in one step, also while PENDING or FAULT is set; the new ST is what the audio
update will use; nothing else changes. -/
def Obligations.TickDecrementsBothTimers : Prop :=
  ∀ (s : State) (rest : List Event), s.schedule = .tickActor :: rest → s.audioDue = none → ∃ t, step s = .next t ∧
    t.dt.toNat = (if s.dt.toNat > 0 then s.dt.toNat - 1 else 0) ∧
    t.st.toNat = (if s.st.toNat > 0 then s.st.toNat - 1 else 0) ∧ t.audioDue = some t.st ∧
    t = { s with dt := t.dt, st := t.st, audioDue := t.audioDue, schedule := rest }

/-- The audio update, the tick actor's second step, the spec's decision D32: AUDIO is 1 exactly when the value the tick returned is
above 0, whatever ST is by then; nothing else changes. -/
def Obligations.AudioUpdateUsesReturnedValue : Prop :=
  ∀ (s : State) (rest : List Event) (v : Byte), s.schedule = .tickActor :: rest → s.audioDue = some v →
    step s = .next { s with audio := decide (v.toNat > 0), audioDue := none, schedule := rest }

/-- Key delivery (60_exceptions.md section 7, the spec's decision D17): the awaiting register receives the key index and PENDING is
cleared; with nothing pending the event is dropped. -/
def Obligations.KeyPressReachesAwaitingRegister : Prop :=
  ∀ (s : State) (rest : List Event) (k : RegIdx), s.schedule = .keyPress k :: rest →
    (s.pending = none → step s = .next { s with schedule := rest }) ∧
    (∀ r, s.pending = some r → ∃ t, step s = .next t ∧ (t.getV r).toNat = k.toNat ∧
      (∀ r', r' ≠ r → t.getV r' = s.getV r') ∧ t.pending = none ∧
      t = { s with v := t.v, pending := none, schedule := rest } ∧ SameBytes s t)

/-- The key-update and dirty-consume steps (60_exceptions.md section 9; the schedule is log 1): a key update writes KEYS, a dirty consume clears DIRTY, and neither does anything else. -/
def Obligations.KeyUpdateAndDirtyConsume : Prop :=
  ∀ (s : State) (rest : List Event),
    (∀ levels, s.schedule = .keyUpdate levels :: rest → step s = .next { s with keys := levels, schedule := rest }) ∧
    (s.schedule = .dirtyConsume :: rest → step s = .next { s with dirty := false, schedule := rest })

/-- The ROM load (60_exceptions.md section 9): the image verbatim from 0x200 up and no other byte, once, before the first cycle step;
a load at another time or of more than 3584 bytes is refused (log 8; the spec's decision D31). -/
def Obligations.RomLoadCopiesImageOnce : Prop :=
  ∀ (s : State) (rest : List Event) (image : List Byte), s.schedule = .romLoad image :: rest →
    (s.romLoadable = true → image.length ≤ 3584 → ∃ t, step s = .next t ∧
      (∀ j (h : j < image.length), t.readMem (BitVec.ofNat 12 (0x200 + j)) = image[j]) ∧
      (∀ a : Addr, a.toNat < 0x200 ∨ 0x200 + image.length ≤ a.toNat → t.readMem a = s.readMem a) ∧
      t = { s with mem := t.mem, romLoadable := false, schedule := rest } ∧ SameRegs s t) ∧
    (s.romLoadable = true → 3584 < image.length → step s = .refused .romImageTooLarge) ∧
    (s.romLoadable = false → step s = .refused .romLoadWhileRunning)

/-- A reset step, from every state, the fault halt included, leaves the machine as it is after reset with the same FONT, but for what
is the environment's: the steps it asks for, the random bytes drawn, the reports emitted (log 10). The equality also fixes what
the spec gives no reset value for, which is the model's choice: STACK all 0 (log 2; R202 leaves it unspecified), no audio update
due and the ROM load possible (log 3). -/
def Obligations.ResetStepLeavesResetState : Prop :=
  ∀ (s : State) (rest : List Event), s.schedule = .reset :: rest →
    step s = .next { State.resetWith s.font with draws := s.draws, reports := s.reports, schedule := rest }

/-- After reset (10_state.md section 12), for every FONT: FONT at 0x000..0x04F, 0 in every other byte, PC 0x200, PENDING none; and the
values of the spec's decision D18 for V, I, SP, DT, ST, FB, DIRTY, KEYS, FAULT, AUDIO. STACK is not stated (log 2). FONT is a
parameter of 80 bytes, the spec's decision D19. -/
def Obligations.ResetStateIsTheTable : Prop :=
  ∀ font : Config.Font, let s := State.resetWith font
    s.font = font ∧ (∀ a : Addr, s.readMem a = if h : a.toNat < 80 then font[a.toNat] else 0) ∧
    s.pc = 0x200 ∧ s.pending = none ∧ (∀ r, s.getV r = 0) ∧ s.i = 0 ∧ s.sp = 0 ∧ s.dt = 0 ∧ s.st = 0 ∧
    (∀ py px, pixel s.fb py px = false) ∧ s.dirty = false ∧ s.keys = 0 ∧ s.fault = none ∧ s.audio = false

/-- The fault halt is left only by reset and the key wait only by a key delivery or reset (60_exceptions.md sections 5 and 12; the
spec's decision D6), once the ROM load window is closed (log 8), and in neither does a step change V (but the awaiting register), PC, I, STACK, SP or MEM. -/
def Obligations.HaltAndWaitAreLeftOnlyAsStated : Prop :=
  ∀ s t : State, step s = .next t → s.schedule.head? ≠ some .reset → s.romLoadable = false →
    (∀ f, s.fault = some f → t.fault = some f) ∧
    (∀ r, s.pending = some r → t.pending = some r ∨ ∃ k, s.schedule.head? = some (.keyPress k)) ∧
    (s.fault ≠ none ∨ s.pending ≠ none →
      t.pc = s.pc ∧ t.i = s.i ∧ t.stack = s.stack ∧ t.sp = s.sp ∧ t.mem = s.mem ∧
      ∀ r, s.pending ≠ some r → t.getV r = s.getV r)

/-- The machine after reset satisfies the invariant, for every FONT. -/
def Obligations.ResetSatisfiesInv : Prop := ∀ font : Config.Font, (State.resetWith font).Inv

/-- Every step, of every actor, from every state that satisfies the invariant leaves a state that satisfies it: the memory stays
canonical, FAULT and PENDING are never both set, PC stays at most 0x10FE, every live stack entry is a PC that passed the fetch
check (10_state.md sections 3, 5, 10, derived there). -/
def Obligations.EveryStepKeepsInv : Prop :=
  ∀ s t : State, s.Inv → step s = .next t → t.Inv

/-- FONT is a parameter that no step changes (20_memory.md section 5, the spec's decision D19; log 5), and whatever its bytes are, LD
F,Vx with a digit 0 to 15 in V[x] leaves I at the five bytes of that digit's glyph, in every state whose font area still holds
FONT. -/
def Obligations.FontIsConstantAndLdFFindsItsGlyphs : Prop :=
  (∀ s t : State, step s = .next t → t.font = s.font) ∧
  (∀ (s : State) (x : RegIdx) (hd : (s.getV x).toNat < 16),
    (∀ a : Addr, ∀ h : a.toNat < 80, s.readMem a = s.font[a.toNat]) →
    ∃ t, exec (.ldF x) s = .next t ∧
      ∀ (k : Nat) (hk : k < 5), t.readMem (t.ea k) = s.font[5 * (s.getV x).toNat + k]'(by show _ < 80; omega))
end

