-- ==== Sys2Proof/Laws/State.lean ====
section
/-! SUPPORT. One lemma per field per update of the state, true by rfl, so that no proof unfolds a record update; and what
`getV`, `readMem` and `memWf` see of an update that touches neither V nor MEM. -/

namespace Sys2Proof.Machine

variable (s : State)

/-! ### writeMem -/

@[simp] theorem State.writeMem_v (a : Addr) (b : Byte) : (s.writeMem a b).v = s.v := rfl
@[simp] theorem State.writeMem_i (a : Addr) (b : Byte) : (s.writeMem a b).i = s.i := rfl
@[simp] theorem State.writeMem_pc (a : Addr) (b : Byte) : (s.writeMem a b).pc = s.pc := rfl
@[simp] theorem State.writeMem_stack (a : Addr) (b : Byte) : (s.writeMem a b).stack = s.stack := rfl
@[simp] theorem State.writeMem_sp (a : Addr) (b : Byte) : (s.writeMem a b).sp = s.sp := rfl
@[simp] theorem State.writeMem_dt (a : Addr) (b : Byte) : (s.writeMem a b).dt = s.dt := rfl
@[simp] theorem State.writeMem_st (a : Addr) (b : Byte) : (s.writeMem a b).st = s.st := rfl
@[simp] theorem State.writeMem_font (a : Addr) (b : Byte) : (s.writeMem a b).font = s.font := rfl
@[simp] theorem State.writeMem_mem (a : Addr) (b : Byte) : (s.writeMem a b).mem = memWrite s.font s.mem a.toNat b := rfl
@[simp] theorem State.writeMem_fb (a : Addr) (b : Byte) : (s.writeMem a b).fb = s.fb := rfl
@[simp] theorem State.writeMem_dirty (a : Addr) (b : Byte) : (s.writeMem a b).dirty = s.dirty := rfl
@[simp] theorem State.writeMem_keys (a : Addr) (b : Byte) : (s.writeMem a b).keys = s.keys := rfl
@[simp] theorem State.writeMem_pending (a : Addr) (b : Byte) : (s.writeMem a b).pending = s.pending := rfl
@[simp] theorem State.writeMem_fault (a : Addr) (b : Byte) : (s.writeMem a b).fault = s.fault := rfl
@[simp] theorem State.writeMem_audio (a : Addr) (b : Byte) : (s.writeMem a b).audio = s.audio := rfl
@[simp] theorem State.writeMem_audioDue (a : Addr) (b : Byte) : (s.writeMem a b).audioDue = s.audioDue := rfl
@[simp] theorem State.writeMem_romLoadable (a : Addr) (b : Byte) : (s.writeMem a b).romLoadable = s.romLoadable := rfl
@[simp] theorem State.writeMem_draws (a : Addr) (b : Byte) : (s.writeMem a b).draws = s.draws := rfl
@[simp] theorem State.writeMem_reports (a : Addr) (b : Byte) : (s.writeMem a b).reports = s.reports := rfl
@[simp] theorem State.writeMem_schedule (a : Addr) (b : Byte) : (s.writeMem a b).schedule = s.schedule := rfl
@[simp] theorem State.writeMem_getV (a : Addr) (b : Byte) (q : RegIdx) : (s.writeMem a b).getV q = s.getV q := rfl

/-! ### setV -/

@[simp] theorem State.setV_v (x : RegIdx) (b : Byte) : (s.setV x b).v = s.v.set x.toNat b x.isLt := rfl
@[simp] theorem State.setV_i (x : RegIdx) (b : Byte) : (s.setV x b).i = s.i := rfl
@[simp] theorem State.setV_pc (x : RegIdx) (b : Byte) : (s.setV x b).pc = s.pc := rfl
@[simp] theorem State.setV_stack (x : RegIdx) (b : Byte) : (s.setV x b).stack = s.stack := rfl
@[simp] theorem State.setV_sp (x : RegIdx) (b : Byte) : (s.setV x b).sp = s.sp := rfl
@[simp] theorem State.setV_dt (x : RegIdx) (b : Byte) : (s.setV x b).dt = s.dt := rfl
@[simp] theorem State.setV_st (x : RegIdx) (b : Byte) : (s.setV x b).st = s.st := rfl
@[simp] theorem State.setV_font (x : RegIdx) (b : Byte) : (s.setV x b).font = s.font := rfl
@[simp] theorem State.setV_mem (x : RegIdx) (b : Byte) : (s.setV x b).mem = s.mem := rfl
@[simp] theorem State.setV_fb (x : RegIdx) (b : Byte) : (s.setV x b).fb = s.fb := rfl
@[simp] theorem State.setV_dirty (x : RegIdx) (b : Byte) : (s.setV x b).dirty = s.dirty := rfl
@[simp] theorem State.setV_keys (x : RegIdx) (b : Byte) : (s.setV x b).keys = s.keys := rfl
@[simp] theorem State.setV_pending (x : RegIdx) (b : Byte) : (s.setV x b).pending = s.pending := rfl
@[simp] theorem State.setV_fault (x : RegIdx) (b : Byte) : (s.setV x b).fault = s.fault := rfl
@[simp] theorem State.setV_audio (x : RegIdx) (b : Byte) : (s.setV x b).audio = s.audio := rfl
@[simp] theorem State.setV_audioDue (x : RegIdx) (b : Byte) : (s.setV x b).audioDue = s.audioDue := rfl
@[simp] theorem State.setV_romLoadable (x : RegIdx) (b : Byte) : (s.setV x b).romLoadable = s.romLoadable := rfl
@[simp] theorem State.setV_draws (x : RegIdx) (b : Byte) : (s.setV x b).draws = s.draws := rfl
@[simp] theorem State.setV_reports (x : RegIdx) (b : Byte) : (s.setV x b).reports = s.reports := rfl
@[simp] theorem State.setV_schedule (x : RegIdx) (b : Byte) : (s.setV x b).schedule = s.schedule := rfl
@[simp] theorem State.setV_readMem (x : RegIdx) (b : Byte) (q : Addr) : (s.setV x b).readMem q = s.readMem q := rfl
@[simp] theorem State.setV_memWf (x : RegIdx) (b : Byte) : (s.setV x b).memWf = s.memWf := rfl

/-! ### setI -/

@[simp] theorem State.setI_v (w : Word) : (s.setI w).v = s.v := rfl
@[simp] theorem State.setI_i (w : Word) : (s.setI w).i = w := rfl
@[simp] theorem State.setI_pc (w : Word) : (s.setI w).pc = s.pc := rfl
@[simp] theorem State.setI_stack (w : Word) : (s.setI w).stack = s.stack := rfl
@[simp] theorem State.setI_sp (w : Word) : (s.setI w).sp = s.sp := rfl
@[simp] theorem State.setI_dt (w : Word) : (s.setI w).dt = s.dt := rfl
@[simp] theorem State.setI_st (w : Word) : (s.setI w).st = s.st := rfl
@[simp] theorem State.setI_font (w : Word) : (s.setI w).font = s.font := rfl
@[simp] theorem State.setI_mem (w : Word) : (s.setI w).mem = s.mem := rfl
@[simp] theorem State.setI_fb (w : Word) : (s.setI w).fb = s.fb := rfl
@[simp] theorem State.setI_dirty (w : Word) : (s.setI w).dirty = s.dirty := rfl
@[simp] theorem State.setI_keys (w : Word) : (s.setI w).keys = s.keys := rfl
@[simp] theorem State.setI_pending (w : Word) : (s.setI w).pending = s.pending := rfl
@[simp] theorem State.setI_fault (w : Word) : (s.setI w).fault = s.fault := rfl
@[simp] theorem State.setI_audio (w : Word) : (s.setI w).audio = s.audio := rfl
@[simp] theorem State.setI_audioDue (w : Word) : (s.setI w).audioDue = s.audioDue := rfl
@[simp] theorem State.setI_romLoadable (w : Word) : (s.setI w).romLoadable = s.romLoadable := rfl
@[simp] theorem State.setI_draws (w : Word) : (s.setI w).draws = s.draws := rfl
@[simp] theorem State.setI_reports (w : Word) : (s.setI w).reports = s.reports := rfl
@[simp] theorem State.setI_schedule (w : Word) : (s.setI w).schedule = s.schedule := rfl
@[simp] theorem State.setI_getV (w : Word) (q : RegIdx) : (s.setI w).getV q = s.getV q := rfl
@[simp] theorem State.setI_readMem (w : Word) (q : Addr) : (s.setI w).readMem q = s.readMem q := rfl
@[simp] theorem State.setI_memWf (w : Word) : (s.setI w).memWf = s.memWf := rfl

/-! ### setDt -/

@[simp] theorem State.setDt_v (b : Byte) : (s.setDt b).v = s.v := rfl
@[simp] theorem State.setDt_i (b : Byte) : (s.setDt b).i = s.i := rfl
@[simp] theorem State.setDt_pc (b : Byte) : (s.setDt b).pc = s.pc := rfl
@[simp] theorem State.setDt_stack (b : Byte) : (s.setDt b).stack = s.stack := rfl
@[simp] theorem State.setDt_sp (b : Byte) : (s.setDt b).sp = s.sp := rfl
@[simp] theorem State.setDt_dt (b : Byte) : (s.setDt b).dt = b := rfl
@[simp] theorem State.setDt_st (b : Byte) : (s.setDt b).st = s.st := rfl
@[simp] theorem State.setDt_font (b : Byte) : (s.setDt b).font = s.font := rfl
@[simp] theorem State.setDt_mem (b : Byte) : (s.setDt b).mem = s.mem := rfl
@[simp] theorem State.setDt_fb (b : Byte) : (s.setDt b).fb = s.fb := rfl
@[simp] theorem State.setDt_dirty (b : Byte) : (s.setDt b).dirty = s.dirty := rfl
@[simp] theorem State.setDt_keys (b : Byte) : (s.setDt b).keys = s.keys := rfl
@[simp] theorem State.setDt_pending (b : Byte) : (s.setDt b).pending = s.pending := rfl
@[simp] theorem State.setDt_fault (b : Byte) : (s.setDt b).fault = s.fault := rfl
@[simp] theorem State.setDt_audio (b : Byte) : (s.setDt b).audio = s.audio := rfl
@[simp] theorem State.setDt_audioDue (b : Byte) : (s.setDt b).audioDue = s.audioDue := rfl
@[simp] theorem State.setDt_romLoadable (b : Byte) : (s.setDt b).romLoadable = s.romLoadable := rfl
@[simp] theorem State.setDt_draws (b : Byte) : (s.setDt b).draws = s.draws := rfl
@[simp] theorem State.setDt_reports (b : Byte) : (s.setDt b).reports = s.reports := rfl
@[simp] theorem State.setDt_schedule (b : Byte) : (s.setDt b).schedule = s.schedule := rfl
@[simp] theorem State.setDt_getV (b : Byte) (q : RegIdx) : (s.setDt b).getV q = s.getV q := rfl
@[simp] theorem State.setDt_readMem (b : Byte) (q : Addr) : (s.setDt b).readMem q = s.readMem q := rfl
@[simp] theorem State.setDt_memWf (b : Byte) : (s.setDt b).memWf = s.memWf := rfl

/-! ### setSt -/

@[simp] theorem State.setSt_v (b : Byte) : (s.setSt b).v = s.v := rfl
@[simp] theorem State.setSt_i (b : Byte) : (s.setSt b).i = s.i := rfl
@[simp] theorem State.setSt_pc (b : Byte) : (s.setSt b).pc = s.pc := rfl
@[simp] theorem State.setSt_stack (b : Byte) : (s.setSt b).stack = s.stack := rfl
@[simp] theorem State.setSt_sp (b : Byte) : (s.setSt b).sp = s.sp := rfl
@[simp] theorem State.setSt_dt (b : Byte) : (s.setSt b).dt = s.dt := rfl
@[simp] theorem State.setSt_st (b : Byte) : (s.setSt b).st = b := rfl
@[simp] theorem State.setSt_font (b : Byte) : (s.setSt b).font = s.font := rfl
@[simp] theorem State.setSt_mem (b : Byte) : (s.setSt b).mem = s.mem := rfl
@[simp] theorem State.setSt_fb (b : Byte) : (s.setSt b).fb = s.fb := rfl
@[simp] theorem State.setSt_dirty (b : Byte) : (s.setSt b).dirty = s.dirty := rfl
@[simp] theorem State.setSt_keys (b : Byte) : (s.setSt b).keys = s.keys := rfl
@[simp] theorem State.setSt_pending (b : Byte) : (s.setSt b).pending = s.pending := rfl
@[simp] theorem State.setSt_fault (b : Byte) : (s.setSt b).fault = s.fault := rfl
@[simp] theorem State.setSt_audio (b : Byte) : (s.setSt b).audio = s.audio := rfl
@[simp] theorem State.setSt_audioDue (b : Byte) : (s.setSt b).audioDue = s.audioDue := rfl
@[simp] theorem State.setSt_romLoadable (b : Byte) : (s.setSt b).romLoadable = s.romLoadable := rfl
@[simp] theorem State.setSt_draws (b : Byte) : (s.setSt b).draws = s.draws := rfl
@[simp] theorem State.setSt_reports (b : Byte) : (s.setSt b).reports = s.reports := rfl
@[simp] theorem State.setSt_schedule (b : Byte) : (s.setSt b).schedule = s.schedule := rfl
@[simp] theorem State.setSt_getV (b : Byte) (q : RegIdx) : (s.setSt b).getV q = s.getV q := rfl
@[simp] theorem State.setSt_readMem (b : Byte) (q : Addr) : (s.setSt b).readMem q = s.readMem q := rfl
@[simp] theorem State.setSt_memWf (b : Byte) : (s.setSt b).memWf = s.memWf := rfl

/-! ### setFrame -/

@[simp] theorem State.setFrame_v (fb : Frame) : (s.setFrame fb).v = s.v := rfl
@[simp] theorem State.setFrame_i (fb : Frame) : (s.setFrame fb).i = s.i := rfl
@[simp] theorem State.setFrame_pc (fb : Frame) : (s.setFrame fb).pc = s.pc := rfl
@[simp] theorem State.setFrame_stack (fb : Frame) : (s.setFrame fb).stack = s.stack := rfl
@[simp] theorem State.setFrame_sp (fb : Frame) : (s.setFrame fb).sp = s.sp := rfl
@[simp] theorem State.setFrame_dt (fb : Frame) : (s.setFrame fb).dt = s.dt := rfl
@[simp] theorem State.setFrame_st (fb : Frame) : (s.setFrame fb).st = s.st := rfl
@[simp] theorem State.setFrame_font (fb : Frame) : (s.setFrame fb).font = s.font := rfl
@[simp] theorem State.setFrame_mem (fb : Frame) : (s.setFrame fb).mem = s.mem := rfl
@[simp] theorem State.setFrame_fb (fb : Frame) : (s.setFrame fb).fb = fb := rfl
@[simp] theorem State.setFrame_dirty (fb : Frame) : (s.setFrame fb).dirty = true := rfl
@[simp] theorem State.setFrame_keys (fb : Frame) : (s.setFrame fb).keys = s.keys := rfl
@[simp] theorem State.setFrame_pending (fb : Frame) : (s.setFrame fb).pending = s.pending := rfl
@[simp] theorem State.setFrame_fault (fb : Frame) : (s.setFrame fb).fault = s.fault := rfl
@[simp] theorem State.setFrame_audio (fb : Frame) : (s.setFrame fb).audio = s.audio := rfl
@[simp] theorem State.setFrame_audioDue (fb : Frame) : (s.setFrame fb).audioDue = s.audioDue := rfl
@[simp] theorem State.setFrame_romLoadable (fb : Frame) : (s.setFrame fb).romLoadable = s.romLoadable := rfl
@[simp] theorem State.setFrame_draws (fb : Frame) : (s.setFrame fb).draws = s.draws := rfl
@[simp] theorem State.setFrame_reports (fb : Frame) : (s.setFrame fb).reports = s.reports := rfl
@[simp] theorem State.setFrame_schedule (fb : Frame) : (s.setFrame fb).schedule = s.schedule := rfl
@[simp] theorem State.setFrame_getV (fb : Frame) (q : RegIdx) : (s.setFrame fb).getV q = s.getV q := rfl
@[simp] theorem State.setFrame_readMem (fb : Frame) (q : Addr) : (s.setFrame fb).readMem q = s.readMem q := rfl
@[simp] theorem State.setFrame_memWf (fb : Frame) : (s.setFrame fb).memWf = s.memWf := rfl

/-! ### clearDirty -/

@[simp] theorem State.clearDirty_v : (s.clearDirty).v = s.v := rfl
@[simp] theorem State.clearDirty_i : (s.clearDirty).i = s.i := rfl
@[simp] theorem State.clearDirty_pc : (s.clearDirty).pc = s.pc := rfl
@[simp] theorem State.clearDirty_stack : (s.clearDirty).stack = s.stack := rfl
@[simp] theorem State.clearDirty_sp : (s.clearDirty).sp = s.sp := rfl
@[simp] theorem State.clearDirty_dt : (s.clearDirty).dt = s.dt := rfl
@[simp] theorem State.clearDirty_st : (s.clearDirty).st = s.st := rfl
@[simp] theorem State.clearDirty_font : (s.clearDirty).font = s.font := rfl
@[simp] theorem State.clearDirty_mem : (s.clearDirty).mem = s.mem := rfl
@[simp] theorem State.clearDirty_fb : (s.clearDirty).fb = s.fb := rfl
@[simp] theorem State.clearDirty_dirty : (s.clearDirty).dirty = false := rfl
@[simp] theorem State.clearDirty_keys : (s.clearDirty).keys = s.keys := rfl
@[simp] theorem State.clearDirty_pending : (s.clearDirty).pending = s.pending := rfl
@[simp] theorem State.clearDirty_fault : (s.clearDirty).fault = s.fault := rfl
@[simp] theorem State.clearDirty_audio : (s.clearDirty).audio = s.audio := rfl
@[simp] theorem State.clearDirty_audioDue : (s.clearDirty).audioDue = s.audioDue := rfl
@[simp] theorem State.clearDirty_romLoadable : (s.clearDirty).romLoadable = s.romLoadable := rfl
@[simp] theorem State.clearDirty_draws : (s.clearDirty).draws = s.draws := rfl
@[simp] theorem State.clearDirty_reports : (s.clearDirty).reports = s.reports := rfl
@[simp] theorem State.clearDirty_schedule : (s.clearDirty).schedule = s.schedule := rfl
@[simp] theorem State.clearDirty_getV (q : RegIdx) : (s.clearDirty).getV q = s.getV q := rfl
@[simp] theorem State.clearDirty_readMem (q : Addr) : (s.clearDirty).readMem q = s.readMem q := rfl
@[simp] theorem State.clearDirty_memWf : (s.clearDirty).memWf = s.memWf := rfl

/-! ### setKeys -/

@[simp] theorem State.setKeys_v (levels : BitVec 16) : (s.setKeys levels).v = s.v := rfl
@[simp] theorem State.setKeys_i (levels : BitVec 16) : (s.setKeys levels).i = s.i := rfl
@[simp] theorem State.setKeys_pc (levels : BitVec 16) : (s.setKeys levels).pc = s.pc := rfl
@[simp] theorem State.setKeys_stack (levels : BitVec 16) : (s.setKeys levels).stack = s.stack := rfl
@[simp] theorem State.setKeys_sp (levels : BitVec 16) : (s.setKeys levels).sp = s.sp := rfl
@[simp] theorem State.setKeys_dt (levels : BitVec 16) : (s.setKeys levels).dt = s.dt := rfl
@[simp] theorem State.setKeys_st (levels : BitVec 16) : (s.setKeys levels).st = s.st := rfl
@[simp] theorem State.setKeys_font (levels : BitVec 16) : (s.setKeys levels).font = s.font := rfl
@[simp] theorem State.setKeys_mem (levels : BitVec 16) : (s.setKeys levels).mem = s.mem := rfl
@[simp] theorem State.setKeys_fb (levels : BitVec 16) : (s.setKeys levels).fb = s.fb := rfl
@[simp] theorem State.setKeys_dirty (levels : BitVec 16) : (s.setKeys levels).dirty = s.dirty := rfl
@[simp] theorem State.setKeys_keys (levels : BitVec 16) : (s.setKeys levels).keys = levels := rfl
@[simp] theorem State.setKeys_pending (levels : BitVec 16) : (s.setKeys levels).pending = s.pending := rfl
@[simp] theorem State.setKeys_fault (levels : BitVec 16) : (s.setKeys levels).fault = s.fault := rfl
@[simp] theorem State.setKeys_audio (levels : BitVec 16) : (s.setKeys levels).audio = s.audio := rfl
@[simp] theorem State.setKeys_audioDue (levels : BitVec 16) : (s.setKeys levels).audioDue = s.audioDue := rfl
@[simp] theorem State.setKeys_romLoadable (levels : BitVec 16) : (s.setKeys levels).romLoadable = s.romLoadable := rfl
@[simp] theorem State.setKeys_draws (levels : BitVec 16) : (s.setKeys levels).draws = s.draws := rfl
@[simp] theorem State.setKeys_reports (levels : BitVec 16) : (s.setKeys levels).reports = s.reports := rfl
@[simp] theorem State.setKeys_schedule (levels : BitVec 16) : (s.setKeys levels).schedule = s.schedule := rfl
@[simp] theorem State.setKeys_getV (levels : BitVec 16) (q : RegIdx) : (s.setKeys levels).getV q = s.getV q := rfl
@[simp] theorem State.setKeys_readMem (levels : BitVec 16) (q : Addr) : (s.setKeys levels).readMem q = s.readMem q := rfl
@[simp] theorem State.setKeys_memWf (levels : BitVec 16) : (s.setKeys levels).memWf = s.memWf := rfl

/-! ### setPending -/

@[simp] theorem State.setPending_v (p : Option RegIdx) : (s.setPending p).v = s.v := rfl
@[simp] theorem State.setPending_i (p : Option RegIdx) : (s.setPending p).i = s.i := rfl
@[simp] theorem State.setPending_pc (p : Option RegIdx) : (s.setPending p).pc = s.pc := rfl
@[simp] theorem State.setPending_stack (p : Option RegIdx) : (s.setPending p).stack = s.stack := rfl
@[simp] theorem State.setPending_sp (p : Option RegIdx) : (s.setPending p).sp = s.sp := rfl
@[simp] theorem State.setPending_dt (p : Option RegIdx) : (s.setPending p).dt = s.dt := rfl
@[simp] theorem State.setPending_st (p : Option RegIdx) : (s.setPending p).st = s.st := rfl
@[simp] theorem State.setPending_font (p : Option RegIdx) : (s.setPending p).font = s.font := rfl
@[simp] theorem State.setPending_mem (p : Option RegIdx) : (s.setPending p).mem = s.mem := rfl
@[simp] theorem State.setPending_fb (p : Option RegIdx) : (s.setPending p).fb = s.fb := rfl
@[simp] theorem State.setPending_dirty (p : Option RegIdx) : (s.setPending p).dirty = s.dirty := rfl
@[simp] theorem State.setPending_keys (p : Option RegIdx) : (s.setPending p).keys = s.keys := rfl
@[simp] theorem State.setPending_pending (p : Option RegIdx) : (s.setPending p).pending = p := rfl
@[simp] theorem State.setPending_fault (p : Option RegIdx) : (s.setPending p).fault = s.fault := rfl
@[simp] theorem State.setPending_audio (p : Option RegIdx) : (s.setPending p).audio = s.audio := rfl
@[simp] theorem State.setPending_audioDue (p : Option RegIdx) : (s.setPending p).audioDue = s.audioDue := rfl
@[simp] theorem State.setPending_romLoadable (p : Option RegIdx) : (s.setPending p).romLoadable = s.romLoadable := rfl
@[simp] theorem State.setPending_draws (p : Option RegIdx) : (s.setPending p).draws = s.draws := rfl
@[simp] theorem State.setPending_reports (p : Option RegIdx) : (s.setPending p).reports = s.reports := rfl
@[simp] theorem State.setPending_schedule (p : Option RegIdx) : (s.setPending p).schedule = s.schedule := rfl
@[simp] theorem State.setPending_getV (p : Option RegIdx) (q : RegIdx) : (s.setPending p).getV q = s.getV q := rfl
@[simp] theorem State.setPending_readMem (p : Option RegIdx) (q : Addr) : (s.setPending p).readMem q = s.readMem q := rfl
@[simp] theorem State.setPending_memWf (p : Option RegIdx) : (s.setPending p).memWf = s.memWf := rfl

/-! ### setAudio -/

@[simp] theorem State.setAudio_v (on : Bool) : (s.setAudio on).v = s.v := rfl
@[simp] theorem State.setAudio_i (on : Bool) : (s.setAudio on).i = s.i := rfl
@[simp] theorem State.setAudio_pc (on : Bool) : (s.setAudio on).pc = s.pc := rfl
@[simp] theorem State.setAudio_stack (on : Bool) : (s.setAudio on).stack = s.stack := rfl
@[simp] theorem State.setAudio_sp (on : Bool) : (s.setAudio on).sp = s.sp := rfl
@[simp] theorem State.setAudio_dt (on : Bool) : (s.setAudio on).dt = s.dt := rfl
@[simp] theorem State.setAudio_st (on : Bool) : (s.setAudio on).st = s.st := rfl
@[simp] theorem State.setAudio_font (on : Bool) : (s.setAudio on).font = s.font := rfl
@[simp] theorem State.setAudio_mem (on : Bool) : (s.setAudio on).mem = s.mem := rfl
@[simp] theorem State.setAudio_fb (on : Bool) : (s.setAudio on).fb = s.fb := rfl
@[simp] theorem State.setAudio_dirty (on : Bool) : (s.setAudio on).dirty = s.dirty := rfl
@[simp] theorem State.setAudio_keys (on : Bool) : (s.setAudio on).keys = s.keys := rfl
@[simp] theorem State.setAudio_pending (on : Bool) : (s.setAudio on).pending = s.pending := rfl
@[simp] theorem State.setAudio_fault (on : Bool) : (s.setAudio on).fault = s.fault := rfl
@[simp] theorem State.setAudio_audio (on : Bool) : (s.setAudio on).audio = on := rfl
@[simp] theorem State.setAudio_audioDue (on : Bool) : (s.setAudio on).audioDue = none := rfl
@[simp] theorem State.setAudio_romLoadable (on : Bool) : (s.setAudio on).romLoadable = s.romLoadable := rfl
@[simp] theorem State.setAudio_draws (on : Bool) : (s.setAudio on).draws = s.draws := rfl
@[simp] theorem State.setAudio_reports (on : Bool) : (s.setAudio on).reports = s.reports := rfl
@[simp] theorem State.setAudio_schedule (on : Bool) : (s.setAudio on).schedule = s.schedule := rfl
@[simp] theorem State.setAudio_getV (on : Bool) (q : RegIdx) : (s.setAudio on).getV q = s.getV q := rfl
@[simp] theorem State.setAudio_readMem (on : Bool) (q : Addr) : (s.setAudio on).readMem q = s.readMem q := rfl
@[simp] theorem State.setAudio_memWf (on : Bool) : (s.setAudio on).memWf = s.memWf := rfl

/-! ### owesAudio -/

@[simp] theorem State.owesAudio_v (b : Byte) : (s.owesAudio b).v = s.v := rfl
@[simp] theorem State.owesAudio_i (b : Byte) : (s.owesAudio b).i = s.i := rfl
@[simp] theorem State.owesAudio_pc (b : Byte) : (s.owesAudio b).pc = s.pc := rfl
@[simp] theorem State.owesAudio_stack (b : Byte) : (s.owesAudio b).stack = s.stack := rfl
@[simp] theorem State.owesAudio_sp (b : Byte) : (s.owesAudio b).sp = s.sp := rfl
@[simp] theorem State.owesAudio_dt (b : Byte) : (s.owesAudio b).dt = s.dt := rfl
@[simp] theorem State.owesAudio_st (b : Byte) : (s.owesAudio b).st = s.st := rfl
@[simp] theorem State.owesAudio_font (b : Byte) : (s.owesAudio b).font = s.font := rfl
@[simp] theorem State.owesAudio_mem (b : Byte) : (s.owesAudio b).mem = s.mem := rfl
@[simp] theorem State.owesAudio_fb (b : Byte) : (s.owesAudio b).fb = s.fb := rfl
@[simp] theorem State.owesAudio_dirty (b : Byte) : (s.owesAudio b).dirty = s.dirty := rfl
@[simp] theorem State.owesAudio_keys (b : Byte) : (s.owesAudio b).keys = s.keys := rfl
@[simp] theorem State.owesAudio_pending (b : Byte) : (s.owesAudio b).pending = s.pending := rfl
@[simp] theorem State.owesAudio_fault (b : Byte) : (s.owesAudio b).fault = s.fault := rfl
@[simp] theorem State.owesAudio_audio (b : Byte) : (s.owesAudio b).audio = s.audio := rfl
@[simp] theorem State.owesAudio_audioDue (b : Byte) : (s.owesAudio b).audioDue = some b := rfl
@[simp] theorem State.owesAudio_romLoadable (b : Byte) : (s.owesAudio b).romLoadable = s.romLoadable := rfl
@[simp] theorem State.owesAudio_draws (b : Byte) : (s.owesAudio b).draws = s.draws := rfl
@[simp] theorem State.owesAudio_reports (b : Byte) : (s.owesAudio b).reports = s.reports := rfl
@[simp] theorem State.owesAudio_schedule (b : Byte) : (s.owesAudio b).schedule = s.schedule := rfl
@[simp] theorem State.owesAudio_getV (b : Byte) (q : RegIdx) : (s.owesAudio b).getV q = s.getV q := rfl
@[simp] theorem State.owesAudio_readMem (b : Byte) (q : Addr) : (s.owesAudio b).readMem q = s.readMem q := rfl
@[simp] theorem State.owesAudio_memWf (b : Byte) : (s.owesAudio b).memWf = s.memWf := rfl

/-! ### closeLoad -/

@[simp] theorem State.closeLoad_v : (s.closeLoad).v = s.v := rfl
@[simp] theorem State.closeLoad_i : (s.closeLoad).i = s.i := rfl
@[simp] theorem State.closeLoad_pc : (s.closeLoad).pc = s.pc := rfl
@[simp] theorem State.closeLoad_stack : (s.closeLoad).stack = s.stack := rfl
@[simp] theorem State.closeLoad_sp : (s.closeLoad).sp = s.sp := rfl
@[simp] theorem State.closeLoad_dt : (s.closeLoad).dt = s.dt := rfl
@[simp] theorem State.closeLoad_st : (s.closeLoad).st = s.st := rfl
@[simp] theorem State.closeLoad_font : (s.closeLoad).font = s.font := rfl
@[simp] theorem State.closeLoad_mem : (s.closeLoad).mem = s.mem := rfl
@[simp] theorem State.closeLoad_fb : (s.closeLoad).fb = s.fb := rfl
@[simp] theorem State.closeLoad_dirty : (s.closeLoad).dirty = s.dirty := rfl
@[simp] theorem State.closeLoad_keys : (s.closeLoad).keys = s.keys := rfl
@[simp] theorem State.closeLoad_pending : (s.closeLoad).pending = s.pending := rfl
@[simp] theorem State.closeLoad_fault : (s.closeLoad).fault = s.fault := rfl
@[simp] theorem State.closeLoad_audio : (s.closeLoad).audio = s.audio := rfl
@[simp] theorem State.closeLoad_audioDue : (s.closeLoad).audioDue = s.audioDue := rfl
@[simp] theorem State.closeLoad_romLoadable : (s.closeLoad).romLoadable = false := rfl
@[simp] theorem State.closeLoad_draws : (s.closeLoad).draws = s.draws := rfl
@[simp] theorem State.closeLoad_reports : (s.closeLoad).reports = s.reports := rfl
@[simp] theorem State.closeLoad_schedule : (s.closeLoad).schedule = s.schedule := rfl
@[simp] theorem State.closeLoad_getV (q : RegIdx) : (s.closeLoad).getV q = s.getV q := rfl
@[simp] theorem State.closeLoad_readMem (q : Addr) : (s.closeLoad).readMem q = s.readMem q := rfl
@[simp] theorem State.closeLoad_memWf : (s.closeLoad).memWf = s.memWf := rfl

/-! ### draw -/

@[simp] theorem State.draw_v : (s.draw.2).v = s.v := rfl
@[simp] theorem State.draw_i : (s.draw.2).i = s.i := rfl
@[simp] theorem State.draw_pc : (s.draw.2).pc = s.pc := rfl
@[simp] theorem State.draw_stack : (s.draw.2).stack = s.stack := rfl
@[simp] theorem State.draw_sp : (s.draw.2).sp = s.sp := rfl
@[simp] theorem State.draw_dt : (s.draw.2).dt = s.dt := rfl
@[simp] theorem State.draw_st : (s.draw.2).st = s.st := rfl
@[simp] theorem State.draw_font : (s.draw.2).font = s.font := rfl
@[simp] theorem State.draw_mem : (s.draw.2).mem = s.mem := rfl
@[simp] theorem State.draw_fb : (s.draw.2).fb = s.fb := rfl
@[simp] theorem State.draw_dirty : (s.draw.2).dirty = s.dirty := rfl
@[simp] theorem State.draw_keys : (s.draw.2).keys = s.keys := rfl
@[simp] theorem State.draw_pending : (s.draw.2).pending = s.pending := rfl
@[simp] theorem State.draw_fault : (s.draw.2).fault = s.fault := rfl
@[simp] theorem State.draw_audio : (s.draw.2).audio = s.audio := rfl
@[simp] theorem State.draw_audioDue : (s.draw.2).audioDue = s.audioDue := rfl
@[simp] theorem State.draw_romLoadable : (s.draw.2).romLoadable = s.romLoadable := rfl
@[simp] theorem State.draw_draws : (s.draw.2).draws = s.draws + 1 := rfl
@[simp] theorem State.draw_reports : (s.draw.2).reports = s.reports := rfl
@[simp] theorem State.draw_schedule : (s.draw.2).schedule = s.schedule := rfl
@[simp] theorem State.draw_getV (q : RegIdx) : (s.draw.2).getV q = s.getV q := rfl
@[simp] theorem State.draw_readMem (q : Addr) : (s.draw.2).readMem q = s.readMem q := rfl
@[simp] theorem State.draw_memWf : (s.draw.2).memWf = s.memWf := rfl

/-! ### report -/

@[simp] theorem State.report_v (op : Word) : (s.report op).v = s.v := rfl
@[simp] theorem State.report_i (op : Word) : (s.report op).i = s.i := rfl
@[simp] theorem State.report_pc (op : Word) : (s.report op).pc = s.pc := rfl
@[simp] theorem State.report_stack (op : Word) : (s.report op).stack = s.stack := rfl
@[simp] theorem State.report_sp (op : Word) : (s.report op).sp = s.sp := rfl
@[simp] theorem State.report_dt (op : Word) : (s.report op).dt = s.dt := rfl
@[simp] theorem State.report_st (op : Word) : (s.report op).st = s.st := rfl
@[simp] theorem State.report_font (op : Word) : (s.report op).font = s.font := rfl
@[simp] theorem State.report_mem (op : Word) : (s.report op).mem = s.mem := rfl
@[simp] theorem State.report_fb (op : Word) : (s.report op).fb = s.fb := rfl
@[simp] theorem State.report_dirty (op : Word) : (s.report op).dirty = s.dirty := rfl
@[simp] theorem State.report_keys (op : Word) : (s.report op).keys = s.keys := rfl
@[simp] theorem State.report_pending (op : Word) : (s.report op).pending = s.pending := rfl
@[simp] theorem State.report_fault (op : Word) : (s.report op).fault = s.fault := rfl
@[simp] theorem State.report_audio (op : Word) : (s.report op).audio = s.audio := rfl
@[simp] theorem State.report_audioDue (op : Word) : (s.report op).audioDue = s.audioDue := rfl
@[simp] theorem State.report_romLoadable (op : Word) : (s.report op).romLoadable = s.romLoadable := rfl
@[simp] theorem State.report_draws (op : Word) : (s.report op).draws = s.draws := rfl
@[simp] theorem State.report_reports (op : Word) : (s.report op).reports = op :: s.reports := rfl
@[simp] theorem State.report_schedule (op : Word) : (s.report op).schedule = s.schedule := rfl
@[simp] theorem State.report_getV (op : Word) (q : RegIdx) : (s.report op).getV q = s.getV q := rfl
@[simp] theorem State.report_readMem (op : Word) (q : Addr) : (s.report op).readMem q = s.readMem q := rfl
@[simp] theorem State.report_memWf (op : Word) : (s.report op).memWf = s.memWf := rfl

/-! ### setSchedule -/

@[simp] theorem State.setSchedule_v (es : List Event) : (s.setSchedule es).v = s.v := rfl
@[simp] theorem State.setSchedule_i (es : List Event) : (s.setSchedule es).i = s.i := rfl
@[simp] theorem State.setSchedule_pc (es : List Event) : (s.setSchedule es).pc = s.pc := rfl
@[simp] theorem State.setSchedule_stack (es : List Event) : (s.setSchedule es).stack = s.stack := rfl
@[simp] theorem State.setSchedule_sp (es : List Event) : (s.setSchedule es).sp = s.sp := rfl
@[simp] theorem State.setSchedule_dt (es : List Event) : (s.setSchedule es).dt = s.dt := rfl
@[simp] theorem State.setSchedule_st (es : List Event) : (s.setSchedule es).st = s.st := rfl
@[simp] theorem State.setSchedule_font (es : List Event) : (s.setSchedule es).font = s.font := rfl
@[simp] theorem State.setSchedule_mem (es : List Event) : (s.setSchedule es).mem = s.mem := rfl
@[simp] theorem State.setSchedule_fb (es : List Event) : (s.setSchedule es).fb = s.fb := rfl
@[simp] theorem State.setSchedule_dirty (es : List Event) : (s.setSchedule es).dirty = s.dirty := rfl
@[simp] theorem State.setSchedule_keys (es : List Event) : (s.setSchedule es).keys = s.keys := rfl
@[simp] theorem State.setSchedule_pending (es : List Event) : (s.setSchedule es).pending = s.pending := rfl
@[simp] theorem State.setSchedule_fault (es : List Event) : (s.setSchedule es).fault = s.fault := rfl
@[simp] theorem State.setSchedule_audio (es : List Event) : (s.setSchedule es).audio = s.audio := rfl
@[simp] theorem State.setSchedule_audioDue (es : List Event) : (s.setSchedule es).audioDue = s.audioDue := rfl
@[simp] theorem State.setSchedule_romLoadable (es : List Event) : (s.setSchedule es).romLoadable = s.romLoadable := rfl
@[simp] theorem State.setSchedule_draws (es : List Event) : (s.setSchedule es).draws = s.draws := rfl
@[simp] theorem State.setSchedule_reports (es : List Event) : (s.setSchedule es).reports = s.reports := rfl
@[simp] theorem State.setSchedule_schedule (es : List Event) : (s.setSchedule es).schedule = es := rfl
@[simp] theorem State.setSchedule_getV (es : List Event) (q : RegIdx) : (s.setSchedule es).getV q = s.getV q := rfl
@[simp] theorem State.setSchedule_readMem (es : List Event) (q : Addr) : (s.setSchedule es).readMem q = s.readMem q := rfl
@[simp] theorem State.setSchedule_memWf (es : List Event) : (s.setSchedule es).memWf = s.memWf := rfl

/-! ### setPc -/

@[simp] theorem State.setPc_v (w : Word) : (s.setPc w).v = s.v := rfl
@[simp] theorem State.setPc_i (w : Word) : (s.setPc w).i = s.i := rfl
@[simp] theorem State.setPc_pc (w : Word) : (s.setPc w).pc = w := rfl
@[simp] theorem State.setPc_stack (w : Word) : (s.setPc w).stack = s.stack := rfl
@[simp] theorem State.setPc_sp (w : Word) : (s.setPc w).sp = s.sp := rfl
@[simp] theorem State.setPc_dt (w : Word) : (s.setPc w).dt = s.dt := rfl
@[simp] theorem State.setPc_st (w : Word) : (s.setPc w).st = s.st := rfl
@[simp] theorem State.setPc_font (w : Word) : (s.setPc w).font = s.font := rfl
@[simp] theorem State.setPc_mem (w : Word) : (s.setPc w).mem = s.mem := rfl
@[simp] theorem State.setPc_fb (w : Word) : (s.setPc w).fb = s.fb := rfl
@[simp] theorem State.setPc_dirty (w : Word) : (s.setPc w).dirty = s.dirty := rfl
@[simp] theorem State.setPc_keys (w : Word) : (s.setPc w).keys = s.keys := rfl
@[simp] theorem State.setPc_pending (w : Word) : (s.setPc w).pending = s.pending := rfl
@[simp] theorem State.setPc_fault (w : Word) : (s.setPc w).fault = s.fault := rfl
@[simp] theorem State.setPc_audio (w : Word) : (s.setPc w).audio = s.audio := rfl
@[simp] theorem State.setPc_audioDue (w : Word) : (s.setPc w).audioDue = s.audioDue := rfl
@[simp] theorem State.setPc_romLoadable (w : Word) : (s.setPc w).romLoadable = s.romLoadable := rfl
@[simp] theorem State.setPc_draws (w : Word) : (s.setPc w).draws = s.draws := rfl
@[simp] theorem State.setPc_reports (w : Word) : (s.setPc w).reports = s.reports := rfl
@[simp] theorem State.setPc_schedule (w : Word) : (s.setPc w).schedule = s.schedule := rfl
@[simp] theorem State.setPc_getV (w : Word) (q : RegIdx) : (s.setPc w).getV q = s.getV q := rfl
@[simp] theorem State.setPc_readMem (w : Word) (q : Addr) : (s.setPc w).readMem q = s.readMem q := rfl
@[simp] theorem State.setPc_memWf (w : Word) : (s.setPc w).memWf = s.memWf := rfl

/-! ### advance -/

@[simp] theorem State.advance_v : (s.advance).v = s.v := rfl
@[simp] theorem State.advance_i : (s.advance).i = s.i := rfl
@[simp] theorem State.advance_pc : (s.advance).pc = s.pc + 2#16 := rfl
@[simp] theorem State.advance_stack : (s.advance).stack = s.stack := rfl
@[simp] theorem State.advance_sp : (s.advance).sp = s.sp := rfl
@[simp] theorem State.advance_dt : (s.advance).dt = s.dt := rfl
@[simp] theorem State.advance_st : (s.advance).st = s.st := rfl
@[simp] theorem State.advance_font : (s.advance).font = s.font := rfl
@[simp] theorem State.advance_mem : (s.advance).mem = s.mem := rfl
@[simp] theorem State.advance_fb : (s.advance).fb = s.fb := rfl
@[simp] theorem State.advance_dirty : (s.advance).dirty = s.dirty := rfl
@[simp] theorem State.advance_keys : (s.advance).keys = s.keys := rfl
@[simp] theorem State.advance_pending : (s.advance).pending = s.pending := rfl
@[simp] theorem State.advance_fault : (s.advance).fault = s.fault := rfl
@[simp] theorem State.advance_audio : (s.advance).audio = s.audio := rfl
@[simp] theorem State.advance_audioDue : (s.advance).audioDue = s.audioDue := rfl
@[simp] theorem State.advance_romLoadable : (s.advance).romLoadable = s.romLoadable := rfl
@[simp] theorem State.advance_draws : (s.advance).draws = s.draws := rfl
@[simp] theorem State.advance_reports : (s.advance).reports = s.reports := rfl
@[simp] theorem State.advance_schedule : (s.advance).schedule = s.schedule := rfl
@[simp] theorem State.advance_getV (q : RegIdx) : (s.advance).getV q = s.getV q := rfl
@[simp] theorem State.advance_readMem (q : Addr) : (s.advance).readMem q = s.readMem q := rfl
@[simp] theorem State.advance_memWf : (s.advance).memWf = s.memWf := rfl

/-! ### skipIf -/

@[simp] theorem State.skipIf_v (c : Bool) : (s.skipIf c).v = s.v := rfl
@[simp] theorem State.skipIf_i (c : Bool) : (s.skipIf c).i = s.i := rfl
@[simp] theorem State.skipIf_pc (c : Bool) : (s.skipIf c).pc = if c then s.pc + 4#16 else s.pc + 2#16 := rfl
@[simp] theorem State.skipIf_stack (c : Bool) : (s.skipIf c).stack = s.stack := rfl
@[simp] theorem State.skipIf_sp (c : Bool) : (s.skipIf c).sp = s.sp := rfl
@[simp] theorem State.skipIf_dt (c : Bool) : (s.skipIf c).dt = s.dt := rfl
@[simp] theorem State.skipIf_st (c : Bool) : (s.skipIf c).st = s.st := rfl
@[simp] theorem State.skipIf_font (c : Bool) : (s.skipIf c).font = s.font := rfl
@[simp] theorem State.skipIf_mem (c : Bool) : (s.skipIf c).mem = s.mem := rfl
@[simp] theorem State.skipIf_fb (c : Bool) : (s.skipIf c).fb = s.fb := rfl
@[simp] theorem State.skipIf_dirty (c : Bool) : (s.skipIf c).dirty = s.dirty := rfl
@[simp] theorem State.skipIf_keys (c : Bool) : (s.skipIf c).keys = s.keys := rfl
@[simp] theorem State.skipIf_pending (c : Bool) : (s.skipIf c).pending = s.pending := rfl
@[simp] theorem State.skipIf_fault (c : Bool) : (s.skipIf c).fault = s.fault := rfl
@[simp] theorem State.skipIf_audio (c : Bool) : (s.skipIf c).audio = s.audio := rfl
@[simp] theorem State.skipIf_audioDue (c : Bool) : (s.skipIf c).audioDue = s.audioDue := rfl
@[simp] theorem State.skipIf_romLoadable (c : Bool) : (s.skipIf c).romLoadable = s.romLoadable := rfl
@[simp] theorem State.skipIf_draws (c : Bool) : (s.skipIf c).draws = s.draws := rfl
@[simp] theorem State.skipIf_reports (c : Bool) : (s.skipIf c).reports = s.reports := rfl
@[simp] theorem State.skipIf_schedule (c : Bool) : (s.skipIf c).schedule = s.schedule := rfl
@[simp] theorem State.skipIf_getV (c : Bool) (q : RegIdx) : (s.skipIf c).getV q = s.getV q := rfl
@[simp] theorem State.skipIf_readMem (c : Bool) (q : Addr) : (s.skipIf c).readMem q = s.readMem q := rfl
@[simp] theorem State.skipIf_memWf (c : Bool) : (s.skipIf c).memWf = s.memWf := rfl

/-! ### raise -/

@[simp] theorem State.raise_v (f : FaultCode) : (s.raise f).v = s.v := rfl
@[simp] theorem State.raise_i (f : FaultCode) : (s.raise f).i = s.i := rfl
@[simp] theorem State.raise_pc (f : FaultCode) : (s.raise f).pc = s.pc := rfl
@[simp] theorem State.raise_stack (f : FaultCode) : (s.raise f).stack = s.stack := rfl
@[simp] theorem State.raise_sp (f : FaultCode) : (s.raise f).sp = s.sp := rfl
@[simp] theorem State.raise_dt (f : FaultCode) : (s.raise f).dt = s.dt := rfl
@[simp] theorem State.raise_st (f : FaultCode) : (s.raise f).st = s.st := rfl
@[simp] theorem State.raise_font (f : FaultCode) : (s.raise f).font = s.font := rfl
@[simp] theorem State.raise_mem (f : FaultCode) : (s.raise f).mem = s.mem := rfl
@[simp] theorem State.raise_fb (f : FaultCode) : (s.raise f).fb = s.fb := rfl
@[simp] theorem State.raise_dirty (f : FaultCode) : (s.raise f).dirty = s.dirty := rfl
@[simp] theorem State.raise_keys (f : FaultCode) : (s.raise f).keys = s.keys := rfl
@[simp] theorem State.raise_pending (f : FaultCode) : (s.raise f).pending = s.pending := rfl
@[simp] theorem State.raise_fault (f : FaultCode) : (s.raise f).fault = some f := rfl
@[simp] theorem State.raise_audio (f : FaultCode) : (s.raise f).audio = s.audio := rfl
@[simp] theorem State.raise_audioDue (f : FaultCode) : (s.raise f).audioDue = s.audioDue := rfl
@[simp] theorem State.raise_romLoadable (f : FaultCode) : (s.raise f).romLoadable = s.romLoadable := rfl
@[simp] theorem State.raise_draws (f : FaultCode) : (s.raise f).draws = s.draws := rfl
@[simp] theorem State.raise_reports (f : FaultCode) : (s.raise f).reports = s.reports := rfl
@[simp] theorem State.raise_schedule (f : FaultCode) : (s.raise f).schedule = s.schedule := rfl
@[simp] theorem State.raise_getV (f : FaultCode) (q : RegIdx) : (s.raise f).getV q = s.getV q := rfl
@[simp] theorem State.raise_readMem (f : FaultCode) (q : Addr) : (s.raise f).readMem q = s.readMem q := rfl
@[simp] theorem State.raise_memWf (f : FaultCode) : (s.raise f).memWf = s.memWf := rfl

/-! ### setResultFlag -/

@[simp] theorem State.setResultFlag_v (x : RegIdx) (r : Byte) (f : Bool) : (s.setResultFlag x r f).v = ((s.setV x r).setV vf (flagByte f)).v := rfl
@[simp] theorem State.setResultFlag_i (x : RegIdx) (r : Byte) (f : Bool) : (s.setResultFlag x r f).i = s.i := rfl
@[simp] theorem State.setResultFlag_pc (x : RegIdx) (r : Byte) (f : Bool) : (s.setResultFlag x r f).pc = s.pc := rfl
@[simp] theorem State.setResultFlag_stack (x : RegIdx) (r : Byte) (f : Bool) : (s.setResultFlag x r f).stack = s.stack := rfl
@[simp] theorem State.setResultFlag_sp (x : RegIdx) (r : Byte) (f : Bool) : (s.setResultFlag x r f).sp = s.sp := rfl
@[simp] theorem State.setResultFlag_dt (x : RegIdx) (r : Byte) (f : Bool) : (s.setResultFlag x r f).dt = s.dt := rfl
@[simp] theorem State.setResultFlag_st (x : RegIdx) (r : Byte) (f : Bool) : (s.setResultFlag x r f).st = s.st := rfl
@[simp] theorem State.setResultFlag_font (x : RegIdx) (r : Byte) (f : Bool) : (s.setResultFlag x r f).font = s.font := rfl
@[simp] theorem State.setResultFlag_mem (x : RegIdx) (r : Byte) (f : Bool) : (s.setResultFlag x r f).mem = s.mem := rfl
@[simp] theorem State.setResultFlag_fb (x : RegIdx) (r : Byte) (f : Bool) : (s.setResultFlag x r f).fb = s.fb := rfl
@[simp] theorem State.setResultFlag_dirty (x : RegIdx) (r : Byte) (f : Bool) : (s.setResultFlag x r f).dirty = s.dirty := rfl
@[simp] theorem State.setResultFlag_keys (x : RegIdx) (r : Byte) (f : Bool) : (s.setResultFlag x r f).keys = s.keys := rfl
@[simp] theorem State.setResultFlag_pending (x : RegIdx) (r : Byte) (f : Bool) : (s.setResultFlag x r f).pending = s.pending := rfl
@[simp] theorem State.setResultFlag_fault (x : RegIdx) (r : Byte) (f : Bool) : (s.setResultFlag x r f).fault = s.fault := rfl
@[simp] theorem State.setResultFlag_audio (x : RegIdx) (r : Byte) (f : Bool) : (s.setResultFlag x r f).audio = s.audio := rfl
@[simp] theorem State.setResultFlag_audioDue (x : RegIdx) (r : Byte) (f : Bool) : (s.setResultFlag x r f).audioDue = s.audioDue := rfl
@[simp] theorem State.setResultFlag_romLoadable (x : RegIdx) (r : Byte) (f : Bool) : (s.setResultFlag x r f).romLoadable = s.romLoadable := rfl
@[simp] theorem State.setResultFlag_draws (x : RegIdx) (r : Byte) (f : Bool) : (s.setResultFlag x r f).draws = s.draws := rfl
@[simp] theorem State.setResultFlag_reports (x : RegIdx) (r : Byte) (f : Bool) : (s.setResultFlag x r f).reports = s.reports := rfl
@[simp] theorem State.setResultFlag_schedule (x : RegIdx) (r : Byte) (f : Bool) : (s.setResultFlag x r f).schedule = s.schedule := rfl
@[simp] theorem State.setResultFlag_readMem (x : RegIdx) (r : Byte) (f : Bool) (q : Addr) : (s.setResultFlag x r f).readMem q = s.readMem q := rfl
@[simp] theorem State.setResultFlag_memWf (x : RegIdx) (r : Byte) (f : Bool) : (s.setResultFlag x r f).memWf = s.memWf := rfl

end Sys2Proof.Machine
end

