-- ==== Sys2Proof/Laws/Memory.lean ====
section
/-! SUPPORT. The laws of memory (spec/20_memory.md R55): a read after a write gives the value written, a write leaves every other
address alone, and every memory operation keeps the canonical form. -/

namespace Sys2Proof.Machine

variable {font : Config.Font}

theorem memInitial_of_lt {a : Nat} (h : a < Config.fontEnd) : memInitial font a = font[a] := dif_pos h

theorem memInitial_of_le {a : Nat} (h : Config.fontEnd ≤ a) : memInitial font a = 0#8 := dif_neg (Nat.not_lt.mpr h)

/-- After reset every byte is what FONT and the zeroed memory give (spec/10_state.md R29). -/
@[simp] theorem State.resetWith_readMem (font : Config.Font) (q : Addr) :
    (State.resetWith font).readMem q = memInitial font q.toNat := rfl

@[simp] theorem State.resetWith_memWf (font : Config.Font) : (State.resetWith font).memWf = true := rfl

theorem memRead_memErase_self (m : List Host.Cell) (a : Nat) : memRead font (memErase m a) a = memInitial font a := by
  induction m with
  | nil => rfl
  | cons c rest ih =>
    obtain ⟨k, v⟩ := c
    by_cases h : k = a
    · simp [memErase, h, ih]
    · simp [memErase, memRead, h, Ne.symm h, ih]

theorem memRead_memErase_of_ne (m : List Host.Cell) {a q : Nat} (h : q ≠ a) :
    memRead font (memErase m a) q = memRead font m q := by
  induction m with
  | nil => rfl
  | cons c rest ih =>
    obtain ⟨k, v⟩ := c
    by_cases hk : k = a
    · subst hk; simp [memErase, memRead, h, ih]
    · simp [memErase, memRead, hk, ih]

theorem memRead_memInsert_of_ne (m : List Host.Cell) {a q : Nat} (b : Byte) (h : q ≠ a) :
    memRead font (memInsert m a b) q = memRead font m q := by
  induction m with
  | nil => simp [memInsert, memRead, h]
  | cons c rest ih =>
    obtain ⟨k, v⟩ := c
    by_cases hk : a < k
    · simp [memInsert, memRead, hk, h]
    · simp [memInsert, memRead, hk, ih]

/-- After an erase no cell of the address is left, so what is inserted is what is read. -/
theorem memRead_memInsert_memErase_self (m : List Host.Cell) (a : Nat) (b : Byte) :
    memRead font (memInsert (memErase m a) a b) a = b := by
  induction m with
  | nil => simp [memErase, memInsert, memRead]
  | cons c rest ih =>
    obtain ⟨k, v⟩ := c
    by_cases hk : k = a
    · simp [memErase, hk, ih]
    · by_cases hlt : a < k
      · simp [memErase, memInsert, memRead, hk, hlt]
      · simp [memErase, memInsert, memRead, hk, hlt, Ne.symm hk, ih]

/-- What a byte write does to every read. -/
theorem memRead_memWrite (m : List Host.Cell) (a q : Nat) (b : Byte) :
    memRead font (memWrite font m a b) q = if q = a then b else memRead font m q := by
  unfold memWrite
  split <;> rename_i hb
  · split
    · next h => rw [h, memRead_memErase_self, hb]
    · next h => exact memRead_memErase_of_ne m h
  · split
    · next h => rw [h, memRead_memInsert_memErase_self]
    · next h => rw [memRead_memInsert_of_ne _ b h, memRead_memErase_of_ne m h]

/-- The read of a state's byte after a store of one byte. -/
theorem State.readMem_writeMem (s : State) (a q : Addr) (b : Byte) :
    (s.writeMem a b).readMem q = if q = a then b else s.readMem q := by
  simp only [State.readMem, State.writeMem, memRead_memWrite, ← BitVec.toNat_inj]

/-! ## The canonical form -/

theorem memWfFrom_cons (lo k : Nat) (c : Byte) (rest : List Host.Cell) :
    memWfFrom font lo ((k, c) :: rest) = true ↔
      lo ≤ k ∧ k < Config.memSize ∧ c ≠ memInitial font k ∧ memWfFrom font (k + 1) rest = true := by
  simp [memWfFrom, and_assoc]

theorem memWfFrom_of_le {lo lo' : Nat} (h : lo' ≤ lo) {m : List Host.Cell} (hm : memWfFrom font lo m = true) :
    memWfFrom font lo' m = true := by
  cases m with
  | nil => rfl
  | cons c rest =>
    obtain ⟨k, v⟩ := c
    rw [memWfFrom_cons] at hm ⊢
    exact ⟨le_trans h hm.1, hm.2⟩

theorem memErase_wf (m : List Host.Cell) (a : Nat) :
    ∀ lo, memWfFrom font lo m = true → memWfFrom font lo (memErase m a) = true := by
  induction m with
  | nil => intro _ _; rfl
  | cons c rest ih =>
    obtain ⟨k, v⟩ := c
    intro lo hm
    rw [memWfFrom_cons] at hm
    by_cases h : k = a
    · rw [memErase, if_pos h]
      exact ih lo (memWfFrom_of_le (by omega) hm.2.2.2)
    · rw [memErase, if_neg h, memWfFrom_cons]
      exact ⟨hm.1, hm.2.1, hm.2.2.1, ih _ hm.2.2.2⟩

theorem memInsert_memErase_wf (m : List Host.Cell) (a : Nat) (b : Byte) (ha : a < Config.memSize)
    (hb : b ≠ memInitial font a) :
    ∀ lo, lo ≤ a → memWfFrom font lo m = true → memWfFrom font lo (memInsert (memErase m a) a b) = true := by
  induction m with
  | nil => intro lo hlo _; simp [memErase, memInsert, memWfFrom, hlo, ha, hb]
  | cons c rest ih =>
    obtain ⟨k, v⟩ := c
    intro lo hlo hm
    rw [memWfFrom_cons] at hm
    by_cases h : k = a
    · rw [memErase, if_pos h]
      exact ih lo hlo (memWfFrom_of_le (by omega) hm.2.2.2)
    · rw [memErase, if_neg h]
      by_cases hk : a < k
      · rw [memInsert, if_pos hk, memWfFrom_cons, memWfFrom_cons]
        exact ⟨hlo, ha, hb, by omega, hm.2.1, hm.2.2.1, memErase_wf rest a _ hm.2.2.2⟩
      · rw [memInsert, if_neg hk, memWfFrom_cons]
        exact ⟨hm.1, hm.2.1, hm.2.2.1, ih _ (by omega) hm.2.2.2⟩

/-- A byte write keeps the canonical form. -/
theorem memWrite_wf (m : List Host.Cell) (a : Nat) (b : Byte) (ha : a < Config.memSize) (hm : memWf font m = true) :
    memWf font (memWrite font m a b) = true := by
  unfold memWrite
  split
  · exact memErase_wf m a 0 hm
  · next hb => exact memInsert_memErase_wf m a b ha hb 0 (Nat.zero_le a) hm

theorem State.writeMem_wf (s : State) (a : Addr) (b : Byte) (hm : s.memWf = true) :
    (s.writeMem a b).memWf = true :=
  memWrite_wf s.mem a.toNat b a.isLt hm

/-- Storing a list of bytes keeps the canonical form. -/
theorem State.writeBytes_wf (bs : List Byte) (s : State) (a : Addr) (hm : s.memWf = true) :
    (s.writeBytes a bs).memWf = true := by
  induction bs generalizing s a with
  | nil => exact hm
  | cons b bs ih => exact ih _ _ (State.writeMem_wf s a b hm)

/-- Storing a list of bytes touches MEM only. -/
theorem State.writeBytes_frame (bs : List Byte) (s : State) (a : Addr) :
    s.writeBytes a bs = { s with mem := (s.writeBytes a bs).mem } := by
  induction bs generalizing s a with
  | nil => rfl
  | cons b bs ih => exact ih (s.writeMem a b) (a + 1#12)

@[simp] theorem State.writeBytes_font (bs : List Byte) (s : State) (a : Addr) : (s.writeBytes a bs).font = s.font := by
  rw [State.writeBytes_frame]

/-- What every read sees after `n` bytes were stored from `base` up, when they end within the address space. -/
theorem State.readMem_writeBytes (bs : List Byte) (s : State) (base : Nat) (h : base + bs.length ≤ 4096) (q : Addr) :
    (s.writeBytes (BitVec.ofNat 12 base) bs).readMem q =
      if hq : base ≤ q.toNat ∧ q.toNat < base + bs.length then bs[q.toNat - base]'(by omega) else s.readMem q := by
  induction bs generalizing s base with
  | nil => rw [dif_neg (by simp)]; rfl
  | cons b bs ih =>
    have hlen : base + 1 + bs.length ≤ 4096 := by simp at h; omega
    have hb : base < 4096 := by simp at h; omega
    have hstep : (BitVec.ofNat 12 base + 1#12 : Addr) = BitVec.ofNat 12 (base + 1) := by
      apply BitVec.eq_of_toNat_eq; simp
    have hq : q = BitVec.ofNat 12 base ↔ q.toNat = base := by
      rw [← BitVec.toNat_inj, BitVec.toNat_ofNat, Nat.mod_eq_of_lt hb]
    rw [State.writeBytes, hstep, ih _ _ hlen, State.readMem_writeMem]
    simp only [List.length_cons]
    by_cases h1 : q.toNat = base
    · rw [dif_neg (by omega), if_pos (hq.mpr h1), dif_pos (by omega)]
      simp [h1]
    · by_cases h2 : base + 1 ≤ q.toNat ∧ q.toNat < base + 1 + bs.length
      · rw [dif_pos h2, dif_pos (by omega)]
        have : q.toNat - base = (q.toNat - (base + 1)) + 1 := by omega
        simp [this]
      · rw [dif_neg h2, if_neg (by rw [hq]; exact h1), dif_neg (by omega)]

end Sys2Proof.Machine
end

