-- ==== Sys2Proof/Laws/Operands.lean ====
section
/-! SUPPORT. The values of the operand forms and flags, as numbers. -/

namespace Sys2Proof.Machine

@[simp] theorem zext16_addr_toNat (a : Addr) : (zext16 a).toNat = a.toNat := by
  have := a.isLt
  simp only [zext16, BitVec.toNat_setWidth]; omega

@[simp] theorem zext16_byte_toNat (b : Byte) : (zext16 b).toNat = b.toNat := by
  have := b.isLt
  simp only [zext16, BitVec.toNat_setWidth]; omega

theorem hundreds_toNat (b : Byte) : (hundreds b).toNat = b.toNat / 100 := by
  simp only [hundreds, BitVec.toNat_ofNat]; omega

theorem tens_toNat (b : Byte) : (tens b).toNat = b.toNat / 10 % 10 := by
  simp only [tens, BitVec.toNat_ofNat]; omega

theorem units_toNat (b : Byte) : (units b).toNat = b.toNat % 10 := by
  simp only [units, BitVec.toNat_ofNat]; omega

/-- LD F,Vx forms the address without a wrap (spec/42_index_memory.md R133). -/
theorem glyphAddress_toNat (b : Byte) : (glyphAddress b).toNat = b.toNat * 5 := by
  have := b.isLt
  simp only [glyphAddress, BitVec.toNat_ofNat, Config.glyphBytes]; omega

theorem flagByte_lowBit_toNat : ∀ a : Byte, (flagByte (lowBit a)).toNat = a.toNat % 2 := by decide

theorem flagByte_highBit_toNat : ∀ a : Byte, (flagByte (highBit a)).toNat = a.toNat / 128 := by decide

theorem vf_eq : vf = 15#4 := rfl

end Sys2Proof.Machine
end

