-- ==== Sys2Proof/Laws/Ops.lean ====
section
/-! SUPPORT. One lemma per shared operation over registers, stack and blocks of memory: everything it can do. -/

namespace Sys2Proof.Machine

/-! ## Registers -/

/-- What every V register reads after one is written (spec/10_state.md R20: no register aliases another). -/
theorem State.getV_setV (s : State) (x q : RegIdx) (b : Byte) :
    (s.setV x b).getV q = if q = x then b else s.getV q := by
  unfold State.getV State.setV
  by_cases h : q = x
  · subst h; simp
  · have : x.toNat ≠ q.toNat := fun e => h (BitVec.eq_of_toNat_eq e.symm)
    simp [Vector.getElem_set_ne _ _ this, h]

/-- The result is written first and the flag second, so the flag stays when x = 15 (spec/41_alu.md R111). -/
theorem State.getV_setResultFlag (s : State) (x q : RegIdx) (b : Byte) (f : Bool) :
    (s.setResultFlag x b f).getV q = if q = vf then flagByte f else if q = x then b else s.getV q := by
  simp only [State.setResultFlag, State.getV_setV]

/-- V is known when every register is: two register files that read the same are the same. -/
theorem State.v_ext {s t : State} (h : ∀ r, t.getV r = s.getV r) : t.v = s.v := by
  apply Vector.ext
  intro j hj
  have := h (BitVec.ofNat 4 j)
  simpa [State.getV, Nat.mod_eq_of_lt hj] using this

/-! ## Call stack -/

/-- SP is at most 16 (spec/10_state.md R26). -/
theorem State.sp_lt (s : State) : s.sp.val < 17 := s.sp.isLt

/-- All that a push can do (spec/40_flow.md R93). -/
theorem State.push_eq (s : State) (w : Word) :
    (s.sp.val = 16 ∧ s.push w = none) ∨
    ∃ t, s.push w = some t ∧ s.sp.val < 16 ∧ t.sp.val = s.sp.val + 1 ∧
      (∀ j (hj : j < 16), t.stack[j] = if j = s.sp.val then w else s.stack[j]) ∧
      t = { s with stack := t.stack, sp := t.sp } := by
  by_cases h : s.sp.val < 16
  · right
    refine ⟨_, dif_pos h, h, rfl, ?_, rfl⟩
    intro j hj
    by_cases e : j = s.sp.val
    · simp [e]
    · simp [Vector.getElem_set_ne _ _ (Ne.symm e), e]
  · have hsp := s.sp_lt
    exact .inl ⟨by omega, dif_neg h⟩

/-- All that a pop can do (spec/40_flow.md R92); the stack keeps its content. -/
theorem State.pop_eq (s : State) :
    (s.sp.val = 0 ∧ s.pop = none) ∨
    ∃ (j : Nat) (hj : j < 16) (t : State), s.sp.val = j + 1 ∧ s.pop = some (s.stack[j], t) ∧ t.sp.val = j ∧
      t = { s with sp := t.sp } := by
  have hsp := s.sp_lt
  by_cases h : s.sp.val = 0
  · exact .inl ⟨h, dif_pos h⟩
  · have hlt : s.sp.val - 1 < 16 := by omega
    exact .inr ⟨s.sp.val - 1, hlt, { s with sp := ⟨s.sp.val - 1, Nat.lt_succ_of_lt hlt⟩ }, by omega,
      dif_neg h, rfl, rfl⟩

/-! ## Effective addresses (spec/42_index_memory.md R130, 20_memory.md R54) -/

theorem State.ea_toNat (s : State) (k : Nat) : (s.ea k).toNat = (s.i.toNat + k) % 4096 := by
  simp [State.ea]

/-- The byte addresses of one instruction are pairwise distinct (R54). -/
theorem State.ea_inj (s : State) {j k : Nat} (hj : j < 4096) (hk : k < 4096) : s.ea j = s.ea k ↔ j = k := by
  rw [← BitVec.toNat_inj, State.ea_toNat, State.ea_toNat]
  omega

theorem State.ea_congr {s t : State} (h : t.i.toNat % 4096 = s.i.toNat % 4096) (k : Nat) : t.ea k = s.ea k := by
  apply BitVec.eq_of_toNat_eq
  rw [State.ea_toNat, State.ea_toNat]
  omega

/-! ## BCD store, register dump, register load -/

theorem State.storeBcd_frame (s : State) (b : Byte) : s.storeBcd b = { s with mem := (s.storeBcd b).mem } := rfl

/-- What every read sees after the three digits are stored (R134). -/
theorem State.readMem_storeBcd (s : State) (b : Byte) (q : Addr) :
    (s.storeBcd b).readMem q =
      if q = s.ea 2 then units b else if q = s.ea 1 then tens b else if q = s.ea 0 then hundreds b else s.readMem q := by
  simp only [State.storeBcd, State.readMem_writeMem]

theorem State.storeBcd_wf (s : State) (b : Byte) (hm : s.memWf = true) : (s.storeBcd b).memWf = true :=
  State.writeMem_wf _ _ _ (State.writeMem_wf _ _ _ (State.writeMem_wf _ _ _ hm))

/-- A register dump touches MEM only (R135). -/
theorem State.dumpRegs_frame (s : State) (n : Nat) : s.dumpRegs n = { s with mem := (s.dumpRegs n).mem } := by
  induction n with
  | zero => rfl
  | succ n ih => rw [State.dumpRegs, ih]; rfl

@[simp] theorem State.dumpRegs_font (s : State) (n : Nat) : (s.dumpRegs n).font = s.font := by rw [State.dumpRegs_frame]

theorem State.dumpRegs_wf (s : State) (n : Nat) (hm : s.memWf = true) : (s.dumpRegs n).memWf = true := by
  induction n with
  | zero => exact hm
  | succ n ih => exact State.writeMem_wf _ _ _ ih

/-- A byte outside the dump reads as before (R135). -/
theorem State.readMem_dumpRegs_other (s : State) (n : Nat) (q : Addr) (h : ∀ k, k < n → q ≠ s.ea k) :
    (s.dumpRegs n).readMem q = s.readMem q := by
  induction n with
  | zero => rfl
  | succ n ih =>
    rw [State.dumpRegs, State.readMem_writeMem, if_neg (h n (by omega))]
    exact ih fun k hk => h k (by omega)

/-- The dump stores V[k] at EA(k) (R135). -/
theorem State.readMem_dumpRegs (s : State) (n : Nat) (hn : n ≤ 16) (k : Nat) (hk : k < n) :
    (s.dumpRegs n).readMem (s.ea k) = s.getV (BitVec.ofNat 4 k) := by
  induction n with
  | zero => omega
  | succ n ih =>
    rw [State.dumpRegs, State.readMem_writeMem]
    by_cases h : k = n
    · rw [if_pos (by rw [h]), h]
    · rw [if_neg (by rw [State.ea_inj s (by omega) (by omega)]; exact h)]
      exact ih (by omega) (by omega)

/-- A register load touches V only (R136). -/
theorem State.loadRegs_frame (s : State) (n : Nat) : s.loadRegs n = { s with v := (s.loadRegs n).v } := by
  induction n with
  | zero => rfl
  | succ n ih => rw [State.loadRegs, ih]; rfl

@[simp] theorem State.loadRegs_font (s : State) (n : Nat) : (s.loadRegs n).font = s.font := by rw [State.loadRegs_frame]

@[simp] theorem State.loadRegs_memWf (s : State) (n : Nat) : (s.loadRegs n).memWf = s.memWf := by rw [State.loadRegs_frame]; rfl

/-- What every V register reads after the first `n` are loaded (R136). -/
theorem State.getV_loadRegs (s : State) (n : Nat) (hn : n ≤ 16) (q : RegIdx) :
    (s.loadRegs n).getV q = if q.toNat < n then s.readMem (s.ea q.toNat) else s.getV q := by
  induction n with
  | zero => rw [if_neg (by omega)]; rfl
  | succ n ih =>
    have hq : q = BitVec.ofNat 4 n ↔ q.toNat = n := by
      rw [← BitVec.toNat_inj, BitVec.toNat_ofNat, Nat.mod_eq_of_lt (by omega)]
    rw [State.loadRegs, State.getV_setV, ih (by omega)]
    by_cases h : q.toNat = n
    · rw [if_pos (hq.mpr h), if_pos (by omega), h]
    · rw [if_neg (by rw [hq]; exact h)]
      by_cases h2 : q.toNat < n
      · rw [if_pos h2, if_pos (by omega)]
      · rw [if_neg h2, if_neg (by omega)]

end Sys2Proof.Machine
end

