-- ==== Sys2Proof/Laws/Display.lean ====
section
/-! SUPPORT. The laws of the framebuffer (spec/43_display.md R140 to R143): what one pixel write does, and that the loops of DRW
invert exactly the pixels of the sprite and collide exactly when one of them was set. -/

namespace Sys2Proof.Machine

theorem column_val (x0 : Byte) (c : Nat) : (column x0 c).val = (x0.toNat + c) % 64 := rfl

theorem row_val (y0 : Byte) (r : Nat) : (row y0 r).val = (y0.toNat + r) % 32 := rfl

/-- What every pixel reads after one is written. -/
theorem pixel_setPixel (fb : Frame) (py qy : Fin Config.height) (px qx : Fin Config.width) (b : Bool) :
    pixel (setPixel fb py px b) qy qx = if qy = py ∧ qx = px then b else pixel fb qy qx := by
  unfold pixel setPixel
  by_cases hy : qy = py
  · subst hy
    by_cases hx : qx = px
    · subst hx; simp
    · have : px.val ≠ qx.val := fun e => hx (Fin.ext e.symm)
      simp [Vector.getElem_set_ne _ _ this, hx]
  · have : py.val ≠ qy.val := fun e => hy (Fin.ext e.symm)
    simp [Vector.getElem_set_ne _ _ this, hy]

/-- Two framebuffers with the same pixels are the same. -/
theorem frame_ext {fb fb' : Frame} (h : ∀ py px, pixel fb py px = pixel fb' py px) : fb = fb' := by
  apply Vector.ext; intro y hy
  apply Vector.ext; intro x hx
  exact h ⟨y, hy⟩ ⟨x, hx⟩

/-- Every pixel of the blank frame is 0. -/
theorem pixel_blankFrame (py : Fin Config.height) (px : Fin Config.width) : pixel blankFrame py px = false := by
  simp [pixel, blankFrame]

/-- `d'` came from `d` by inverting exactly the pixels in `M`, which collides exactly when one of them was set or `d` had
collided. -/
def Inverts (d d' : Drawing) (M : Fin Config.height → Fin Config.width → Prop) : Prop :=
  (∀ py px, (M py px → pixel d'.fb py px = !pixel d.fb py px) ∧ (¬ M py px → pixel d'.fb py px = pixel d.fb py px)) ∧
  (d'.collide = true ↔ d.collide = true ∨ ∃ py px, M py px ∧ pixel d.fb py px = true)

/-- Inverting one pixel outside `M` after `M` inverts both. -/
theorem Inverts.flip {d d' : Drawing} {M : Fin Config.height → Fin Config.width → Prop} (h : Inverts d d' M)
    {py : Fin Config.height} {px : Fin Config.width} (hM : ¬ M py px) :
    Inverts d (flipPixel d' py px) fun qy qx => M qy qx ∨ (qy = py ∧ qx = px) := by
  constructor
  · intro qy qx
    simp only [flipPixel, pixel_setPixel]
    by_cases e : qy = py ∧ qx = px
    · obtain ⟨rfl, rfl⟩ := e
      simp [(h.1 qy qx).2 hM]
    · simpa [e] using h.1 qy qx
  · simp only [flipPixel, Bool.or_eq_true, h.2, (h.1 py px).2 hM, or_assoc]
    refine or_congr_right ⟨?_, ?_⟩
    · rintro (⟨qy, qx, hq, hp⟩ | hp)
      exacts [⟨qy, qx, .inl hq, hp⟩, ⟨py, px, .inr ⟨rfl, rfl⟩, hp⟩]
    · rintro ⟨qy, qx, hq | ⟨rfl, rfl⟩, hp⟩
      exacts [.inl ⟨qy, qx, hq, hp⟩, .inr hp]

theorem Inverts.congr {d d' : Drawing} {M M' : Fin Config.height → Fin Config.width → Prop} (h : Inverts d d' M)
    (hM : ∀ py px, M py px ↔ M' py px) : Inverts d d' M' := by
  have : M = M' := by funext py px; exact propext (hM py px)
  rwa [← this]

/-- Columns 0 to c-1 of sprite row r invert their pixels, none of which was inverted by an earlier row (R140: the pixels one DRW
touches are pairwise distinct). -/
theorem drawColumns_inverts {x0 y0 : Byte} {r : Nat} {b : Byte} {d d' : Drawing}
    {M : Fin Config.height → Fin Config.width → Prop} (h : Inverts d d' M)
    (hM : ∀ c < 8, ¬ M (row y0 r) (column x0 c)) (c : Nat) (hc : c ≤ 8) :
    Inverts d (drawColumns x0 y0 r b d' c) fun py px =>
      M py px ∨ ∃ k, k < c ∧ b.getLsbD (7 - k) = true ∧ py = row y0 r ∧ px = column x0 k := by
  induction c with
  | zero => exact h.congr (by simp)
  | succ c ih =>
    have ih := ih (by omega)
    rw [drawColumns]
    by_cases hb : b.getLsbD (7 - c) = true
    · rw [if_pos hb]
      refine (ih.flip (py := row y0 r) (px := column x0 c) ?_).congr ?_
      · rintro (hm | ⟨k, hk, _, _, he⟩)
        · exact hM c (by omega) hm
        · have := congrArg Fin.val he
          rw [column_val, column_val] at this
          omega
      · intro py px
        constructor
        · rintro ((hm | ⟨k, hk, h1, h2⟩) | ⟨rfl, rfl⟩)
          exacts [.inl hm, .inr ⟨k, by omega, h1, h2⟩, .inr ⟨c, by omega, hb, rfl, rfl⟩]
        · rintro (hm | ⟨k, hk, h1, h2⟩)
          · exact .inl (.inl hm)
          · by_cases e : k = c
            · subst e; exact .inr h2
            · exact .inl (.inr ⟨k, by omega, h1, h2⟩)
    · rw [if_neg hb]
      refine ih.congr fun py px => or_congr_right ⟨?_, ?_⟩
      · rintro ⟨k, hk, h1⟩; exact ⟨k, by omega, h1⟩
      · rintro ⟨k, hk, h1, h2⟩
        have : k ≠ c := by rintro rfl; exact hb h1
        exact ⟨k, by omega, h1, h2⟩

/-- The loops of DRW (R142) do what R143 says: exactly the pixels of the sprite are inverted, and they collide exactly when one of
them was set. -/
theorem State.drawRows_inverts (s : State) (x0 y0 : Byte) (n : Nat) (hn : n ≤ 15) :
    Inverts ⟨s.fb, false⟩ (s.drawRows x0 y0 n) (InSprite s x0 y0 n) := by
  induction n with
  | zero => exact ⟨fun py px => ⟨fun ⟨_, _, h, _⟩ => absurd h (Nat.not_lt_zero _), fun _ => rfl⟩,
      by simp [State.drawRows, InSprite]⟩
  | succ n ih =>
    rw [State.drawRows]
    refine (drawColumns_inverts (ih (by omega)) ?_ 8 (le_refl 8)).congr ?_
    · rintro c hc ⟨r, k, hr, hk, _, hy, _⟩
      rw [row_val] at hy
      omega
    · intro py px
      constructor
      · rintro (⟨r, c, hr, h⟩ | ⟨c, hc, hb, rfl, rfl⟩)
        exacts [⟨r, c, by omega, h⟩, ⟨n, c, by omega, hc, hb, rfl, rfl⟩]
      · rintro ⟨r, c, hr, hc, hb, hy, hx⟩
        by_cases e : r = n
        · subst e; exact .inr ⟨c, hc, hb, Fin.ext hy, Fin.ext hx⟩
        · exact .inl ⟨r, c, by omega, hc, hb, hy, hx⟩

end Sys2Proof.Machine
end

