-- ==== Sys2Proof/Laws/Encoding.lean ====
section
/-! SUPPORT. The fields of a packed word are what was packed (spec/30_encoding.md R71), and an opcode is its two bytes (20_memory.md
R52). -/

namespace Sys2Proof

theorem packNnn_toNat (f : BitVec 4) (nnn : Addr) : (packNnn f nnn).toNat = f.toNat * 4096 + nnn.toNat := by
  show (f ++ nnn).toNat = _
  rw [BitVec.toNat_append, ← Nat.shiftLeft_add_eq_or_of_lt nnn.isLt, Nat.shiftLeft_eq]

theorem packXkk_toNat (f : BitVec 4) (x : RegIdx) (kk : Byte) :
    (packXkk f x kk).toNat = f.toNat * 4096 + x.toNat * 256 + kk.toNat := by
  show (f ++ x ++ kk).toNat = _
  rw [BitVec.toNat_append, BitVec.toNat_append, ← Nat.shiftLeft_add_eq_or_of_lt kk.isLt,
    ← Nat.shiftLeft_add_eq_or_of_lt x.isLt, Nat.shiftLeft_eq, Nat.shiftLeft_eq]
  omega

theorem packXyn_toNat (f : BitVec 4) (x y : RegIdx) (n : BitVec 4) :
    (packXyn f x y n).toNat = f.toNat * 4096 + x.toNat * 256 + y.toNat * 16 + n.toNat := by
  show (f ++ x ++ y ++ n).toNat = _
  rw [BitVec.toNat_append, BitVec.toNat_append, BitVec.toNat_append, ← Nat.shiftLeft_add_eq_or_of_lt n.isLt,
    ← Nat.shiftLeft_add_eq_or_of_lt y.isLt, ← Nat.shiftLeft_add_eq_or_of_lt x.isLt]
  simp only [Nat.shiftLeft_eq]
  omega

/-! ## Fields as numbers -/

theorem fieldFam_toNat (op : Word) : (fieldFam op).toNat = op.toNat / 4096 := by
  simp only [fieldFam, BitVec.extractLsb'_toNat, Nat.shiftRight_eq_div_pow]; omega

theorem fieldX_toNat (op : Word) : (fieldX op).toNat = op.toNat / 256 % 16 := by
  simp only [fieldX, BitVec.extractLsb'_toNat, Nat.shiftRight_eq_div_pow]

theorem fieldY_toNat (op : Word) : (fieldY op).toNat = op.toNat / 16 % 16 := by
  simp only [fieldY, BitVec.extractLsb'_toNat, Nat.shiftRight_eq_div_pow]

theorem fieldN_toNat (op : Word) : (fieldN op).toNat = op.toNat % 16 := by
  simp [fieldN]

theorem fieldKk_toNat (op : Word) : (fieldKk op).toNat = op.toNat % 256 := by
  simp [fieldKk]

theorem fieldNnn_toNat (op : Word) : (fieldNnn op).toNat = op.toNat % 4096 := by
  simp [fieldNnn]

/-! ## Fields of a packed word -/

@[simp] theorem fieldFam_packNnn (f : BitVec 4) (nnn : Addr) : fieldFam (packNnn f nnn) = f := by
  apply BitVec.eq_of_toNat_eq; rw [fieldFam_toNat, packNnn_toNat]; omega

@[simp] theorem fieldNnn_packNnn (f : BitVec 4) (nnn : Addr) : fieldNnn (packNnn f nnn) = nnn := by
  apply BitVec.eq_of_toNat_eq; rw [fieldNnn_toNat, packNnn_toNat]; omega

@[simp] theorem fieldFam_packXkk (f : BitVec 4) (x : RegIdx) (kk : Byte) : fieldFam (packXkk f x kk) = f := by
  apply BitVec.eq_of_toNat_eq; rw [fieldFam_toNat, packXkk_toNat]; omega

@[simp] theorem fieldX_packXkk (f : BitVec 4) (x : RegIdx) (kk : Byte) : fieldX (packXkk f x kk) = x := by
  apply BitVec.eq_of_toNat_eq; rw [fieldX_toNat, packXkk_toNat]; omega

@[simp] theorem fieldKk_packXkk (f : BitVec 4) (x : RegIdx) (kk : Byte) : fieldKk (packXkk f x kk) = kk := by
  apply BitVec.eq_of_toNat_eq; rw [fieldKk_toNat, packXkk_toNat]; omega

@[simp] theorem fieldFam_packXyn (f : BitVec 4) (x y : RegIdx) (n : BitVec 4) : fieldFam (packXyn f x y n) = f := by
  apply BitVec.eq_of_toNat_eq; rw [fieldFam_toNat, packXyn_toNat]; omega

@[simp] theorem fieldX_packXyn (f : BitVec 4) (x y : RegIdx) (n : BitVec 4) : fieldX (packXyn f x y n) = x := by
  apply BitVec.eq_of_toNat_eq; rw [fieldX_toNat, packXyn_toNat]; omega

@[simp] theorem fieldY_packXyn (f : BitVec 4) (x y : RegIdx) (n : BitVec 4) : fieldY (packXyn f x y n) = y := by
  apply BitVec.eq_of_toNat_eq; rw [fieldY_toNat, packXyn_toNat]; omega

@[simp] theorem fieldN_packXyn (f : BitVec 4) (x y : RegIdx) (n : BitVec 4) : fieldN (packXyn f x y n) = n := by
  apply BitVec.eq_of_toNat_eq; rw [fieldN_toNat, packXyn_toNat]; omega

/-! ## The decoder, family by family (R72) -/

theorem decode_fam0 {op : Word} (h : fieldFam op = 0x0#4) : decode op = decodeFam0 op := by
  simp [decode, h]

theorem decode_fam1 {op : Word} (h : fieldFam op = 0x1#4) : decode op = .instr (.jp (fieldNnn op)) := by
  simp [decode, h]

theorem decode_fam2 {op : Word} (h : fieldFam op = 0x2#4) : decode op = .instr (.call (fieldNnn op)) := by
  simp [decode, h]

theorem decode_fam3 {op : Word} (h : fieldFam op = 0x3#4) : decode op = .instr (.seImm (fieldX op) (fieldKk op)) := by
  simp [decode, h]

theorem decode_fam4 {op : Word} (h : fieldFam op = 0x4#4) : decode op = .instr (.sneImm (fieldX op) (fieldKk op)) := by
  simp [decode, h]

theorem decode_fam5 {op : Word} (h : fieldFam op = 0x5#4) : decode op = .instr (.seReg (fieldX op) (fieldY op) (fieldN op)) := by
  simp [decode, h]

theorem decode_fam6 {op : Word} (h : fieldFam op = 0x6#4) : decode op = .instr (.ldImm (fieldX op) (fieldKk op)) := by
  simp [decode, h]

theorem decode_fam7 {op : Word} (h : fieldFam op = 0x7#4) : decode op = .instr (.addImm (fieldX op) (fieldKk op)) := by
  simp [decode, h]

theorem decode_fam8 {op : Word} (h : fieldFam op = 0x8#4) : decode op = decodeFam8 op := by
  simp [decode, h]

theorem decode_fam9 {op : Word} (h : fieldFam op = 0x9#4) : decode op = .instr (.sneReg (fieldX op) (fieldY op) (fieldN op)) := by
  simp [decode, h]

theorem decode_famA {op : Word} (h : fieldFam op = 0xA#4) : decode op = .instr (.ldI (fieldNnn op)) := by
  simp [decode, h]

theorem decode_famB {op : Word} (h : fieldFam op = 0xB#4) : decode op = .instr (.jpV0 (fieldNnn op)) := by
  simp [decode, h]

theorem decode_famC {op : Word} (h : fieldFam op = 0xC#4) : decode op = .instr (.rnd (fieldX op) (fieldKk op)) := by
  simp [decode, h]

theorem decode_famD {op : Word} (h : fieldFam op = 0xD#4) : decode op = .instr (.drw (fieldX op) (fieldY op) (fieldN op)) := by
  simp [decode, h]

theorem decode_famE {op : Word} (h : fieldFam op = 0xE#4) : decode op = decodeFamE op := by
  simp [decode, h]

theorem decode_famF {op : Word} (h : fieldFam op = 0xF#4) : decode op = decodeFamF op := by
  simp [decode, h]

/-- Every family is one of the sixteen. -/
theorem fam_cases : ∀ f : BitVec 4, f = 0x0#4 ∨ f = 0x1#4 ∨ f = 0x2#4 ∨ f = 0x3#4 ∨ f = 0x4#4 ∨ f = 0x5#4 ∨ f = 0x6#4 ∨
    f = 0x7#4 ∨ f = 0x8#4 ∨ f = 0x9#4 ∨ f = 0xA#4 ∨ f = 0xB#4 ∨ f = 0xC#4 ∨ f = 0xD#4 ∨ f = 0xE#4 ∨ f = 0xF#4 := by decide

/-! ## A word is its fields -/

theorem packNnn_fields {op : Word} {f : BitVec 4} (h : fieldFam op = f) : packNnn f (fieldNnn op) = op := by
  subst h; apply BitVec.eq_of_toNat_eq; rw [packNnn_toNat, fieldFam_toNat, fieldNnn_toNat]; omega

theorem packXkk_fields {op : Word} {f : BitVec 4} (h : fieldFam op = f) : packXkk f (fieldX op) (fieldKk op) = op := by
  subst h; apply BitVec.eq_of_toNat_eq; rw [packXkk_toNat, fieldFam_toNat, fieldX_toNat, fieldKk_toNat]; omega

theorem packXyn_fields {op : Word} {f : BitVec 4} (h : fieldFam op = f) :
    packXyn f (fieldX op) (fieldY op) (fieldN op) = op := by
  subst h; apply BitVec.eq_of_toNat_eq
  rw [packXyn_toNat, fieldFam_toNat, fieldX_toNat, fieldY_toNat, fieldN_toNat]; omega

/-! ## Bytes -/

theorem opcodeOfBytes_toNat (hi lo : Byte) : (opcodeOfBytes hi lo).toNat = hi.toNat * 256 + lo.toNat := by
  show (hi ++ lo).toNat = _
  rw [BitVec.toNat_append, ← Nat.shiftLeft_add_eq_or_of_lt lo.isLt, Nat.shiftLeft_eq]

/-- A word is its high byte and its low byte, in that order (R52). -/
@[simp] theorem opcodeOfBytes_highByte_lowByte (op : Word) : opcodeOfBytes (highByte op) (lowByte op) = op := by
  apply BitVec.eq_of_toNat_eq
  rw [opcodeOfBytes_toNat]
  simp only [highByte, lowByte, BitVec.extractLsb'_toNat, Nat.shiftRight_eq_div_pow]
  omega

end Sys2Proof
end

