-- ==== Sys2Proof/Laws/PerInstr.lean ====
section
/-! SUPPORT. Per-instruction statements: the encoding of an instruction agrees with its row of spec/opcode_table.json under the
row's mask. -/

namespace Sys2Proof.Laws

/-- The row's match and mask, as spec/opcode_table.json gives them. -/
def tableRow : Instr → Word × Word
  | .cls => (0x00E0, 0xFFFF)
  | .ret => (0x00EE, 0xFFFF)
  | .jp _ => (0x1000, 0xF000)
  | .call _ => (0x2000, 0xF000)
  | .seImm _ _ => (0x3000, 0xF000)
  | .sneImm _ _ => (0x4000, 0xF000)
  | .seReg _ _ _ => (0x5000, 0xF000)
  | .ldImm _ _ => (0x6000, 0xF000)
  | .addImm _ _ => (0x7000, 0xF000)
  | .ldReg _ _ => (0x8000, 0xF00F)
  | .orReg _ _ => (0x8001, 0xF00F)
  | .andReg _ _ => (0x8002, 0xF00F)
  | .xorReg _ _ => (0x8003, 0xF00F)
  | .addReg _ _ => (0x8004, 0xF00F)
  | .subReg _ _ => (0x8005, 0xF00F)
  | .shr _ _ => (0x8006, 0xF00F)
  | .subnReg _ _ => (0x8007, 0xF00F)
  | .shl _ _ => (0x800E, 0xF00F)
  | .sneReg _ _ _ => (0x9000, 0xF000)
  | .ldI _ => (0xA000, 0xF000)
  | .jpV0 _ => (0xB000, 0xF000)
  | .rnd _ _ => (0xC000, 0xF000)
  | .drw _ _ _ => (0xD000, 0xF000)
  | .skp _ => (0xE09E, 0xF0FF)
  | .sknp _ => (0xE0A1, 0xF0FF)
  | .ldVxDt _ => (0xF007, 0xF0FF)
  | .ldVxK _ => (0xF00A, 0xF0FF)
  | .ldDtVx _ => (0xF015, 0xF0FF)
  | .ldStVx _ => (0xF018, 0xF0FF)
  | .addI _ => (0xF01E, 0xF0FF)
  | .ldF _ => (0xF029, 0xF0FF)
  | .ldB _ => (0xF033, 0xF0FF)
  | .ldMemVx _ => (0xF055, 0xF0FF)
  | .ldVxMem _ => (0xF065, 0xF0FF)

/-- The encoder keeps the row's fixed bits: `encode i` under the row's mask is the row's match. -/
def FixedBits.Statement (i : Instr) : Prop := encode i &&& (tableRow i).2 = (tableRow i).1

theorem and_ones4 : ∀ f : BitVec 4, f &&& 0xF#4 = f := by decide

theorem and_ones8 (b : Byte) : b &&& 0xFF#8 = b := BitVec.and_allOnes

/-- The mask 0xF000 keeps the family of a packed word. -/
theorem packNnn_and (f : BitVec 4) (nnn : Addr) : packNnn f nnn &&& 0xF000 = packNnn f 0 := by
  show (f ++ nnn) &&& (0xF#4 ++ 0x000#12) = f ++ 0x000#12
  rw [BitVec.and_append]
  simp [and_ones4]

theorem packXkk_and_fam (f : BitVec 4) (x : RegIdx) (kk : Byte) : packXkk f x kk &&& 0xF000 = packXkk f 0 0 := by
  show (f ++ x ++ kk) &&& (0xF#4 ++ 0x0#4 ++ 0x00#8) = f ++ 0x0#4 ++ 0x00#8
  rw [BitVec.and_append, BitVec.and_append]
  simp [and_ones4]

/-- The mask 0xF0FF keeps the family and the low byte. -/
theorem packXkk_and_sel (f : BitVec 4) (x : RegIdx) (kk : Byte) : packXkk f x kk &&& 0xF0FF = packXkk f 0 kk := by
  show (f ++ x ++ kk) &&& (0xF#4 ++ 0x0#4 ++ 0xFF#8) = f ++ 0x0#4 ++ kk
  rw [BitVec.and_append, BitVec.and_append]
  simp [and_ones4, and_ones8]

theorem packXyn_and_fam (f : BitVec 4) (x y : RegIdx) (n : BitVec 4) : packXyn f x y n &&& 0xF000 = packXyn f 0 0 0 := by
  show (f ++ x ++ y ++ n) &&& (0xF#4 ++ 0x0#4 ++ 0x0#4 ++ 0x0#4) = f ++ 0x0#4 ++ 0x0#4 ++ 0x0#4
  rw [BitVec.and_append, BitVec.and_append, BitVec.and_append]
  simp [and_ones4]

/-- The mask 0xF00F keeps the family and the low nibble. -/
theorem packXyn_and_sel (f : BitVec 4) (x y : RegIdx) (n : BitVec 4) : packXyn f x y n &&& 0xF00F = packXyn f 0 0 n := by
  show (f ++ x ++ y ++ n) &&& (0xF#4 ++ 0x0#4 ++ 0x0#4 ++ 0xF#4) = f ++ 0x0#4 ++ 0x0#4 ++ n
  rw [BitVec.and_append, BitVec.and_append, BitVec.and_append]
  simp [and_ones4]

theorem FixedBits.cls : FixedBits.Statement .cls := rfl
theorem FixedBits.ret : FixedBits.Statement .ret := rfl
theorem FixedBits.jp (nnn : Addr) : FixedBits.Statement (.jp nnn) := packNnn_and ..
theorem FixedBits.call (nnn : Addr) : FixedBits.Statement (.call nnn) := packNnn_and ..
theorem FixedBits.seImm (x : RegIdx) (kk : Byte) : FixedBits.Statement (.seImm x kk) := packXkk_and_fam ..
theorem FixedBits.sneImm (x : RegIdx) (kk : Byte) : FixedBits.Statement (.sneImm x kk) := packXkk_and_fam ..
theorem FixedBits.seReg (x y : RegIdx) (lo : BitVec 4) : FixedBits.Statement (.seReg x y lo) := packXyn_and_fam ..
theorem FixedBits.ldImm (x : RegIdx) (kk : Byte) : FixedBits.Statement (.ldImm x kk) := packXkk_and_fam ..
theorem FixedBits.addImm (x : RegIdx) (kk : Byte) : FixedBits.Statement (.addImm x kk) := packXkk_and_fam ..
theorem FixedBits.ldReg (x y : RegIdx) : FixedBits.Statement (.ldReg x y) := packXyn_and_sel ..
theorem FixedBits.orReg (x y : RegIdx) : FixedBits.Statement (.orReg x y) := packXyn_and_sel ..
theorem FixedBits.andReg (x y : RegIdx) : FixedBits.Statement (.andReg x y) := packXyn_and_sel ..
theorem FixedBits.xorReg (x y : RegIdx) : FixedBits.Statement (.xorReg x y) := packXyn_and_sel ..
theorem FixedBits.addReg (x y : RegIdx) : FixedBits.Statement (.addReg x y) := packXyn_and_sel ..
theorem FixedBits.subReg (x y : RegIdx) : FixedBits.Statement (.subReg x y) := packXyn_and_sel ..
theorem FixedBits.shr (x y : RegIdx) : FixedBits.Statement (.shr x y) := packXyn_and_sel ..
theorem FixedBits.subnReg (x y : RegIdx) : FixedBits.Statement (.subnReg x y) := packXyn_and_sel ..
theorem FixedBits.shl (x y : RegIdx) : FixedBits.Statement (.shl x y) := packXyn_and_sel ..
theorem FixedBits.sneReg (x y : RegIdx) (lo : BitVec 4) : FixedBits.Statement (.sneReg x y lo) := packXyn_and_fam ..
theorem FixedBits.ldI (nnn : Addr) : FixedBits.Statement (.ldI nnn) := packNnn_and ..
theorem FixedBits.jpV0 (nnn : Addr) : FixedBits.Statement (.jpV0 nnn) := packNnn_and ..
theorem FixedBits.rnd (x : RegIdx) (kk : Byte) : FixedBits.Statement (.rnd x kk) := packXkk_and_fam ..
theorem FixedBits.drw (x y : RegIdx) (n : BitVec 4) : FixedBits.Statement (.drw x y n) := packXyn_and_fam ..
theorem FixedBits.skp (x : RegIdx) : FixedBits.Statement (.skp x) := packXkk_and_sel ..
theorem FixedBits.sknp (x : RegIdx) : FixedBits.Statement (.sknp x) := packXkk_and_sel ..
theorem FixedBits.ldVxDt (x : RegIdx) : FixedBits.Statement (.ldVxDt x) := packXkk_and_sel ..
theorem FixedBits.ldVxK (x : RegIdx) : FixedBits.Statement (.ldVxK x) := packXkk_and_sel ..
theorem FixedBits.ldDtVx (x : RegIdx) : FixedBits.Statement (.ldDtVx x) := packXkk_and_sel ..
theorem FixedBits.ldStVx (x : RegIdx) : FixedBits.Statement (.ldStVx x) := packXkk_and_sel ..
theorem FixedBits.addI (x : RegIdx) : FixedBits.Statement (.addI x) := packXkk_and_sel ..
theorem FixedBits.ldF (x : RegIdx) : FixedBits.Statement (.ldF x) := packXkk_and_sel ..
theorem FixedBits.ldB (x : RegIdx) : FixedBits.Statement (.ldB x) := packXkk_and_sel ..
theorem FixedBits.ldMemVx (x : RegIdx) : FixedBits.Statement (.ldMemVx x) := packXkk_and_sel ..
theorem FixedBits.ldVxMem (x : RegIdx) : FixedBits.Statement (.ldVxMem x) := packXkk_and_sel ..

end Sys2Proof.Laws
end

