-- ==== Sys2Proof/Laws/Step.lean ====
section
/-! SUPPORT. What a step can do, said once: the cycle step's cases (spec/60_exceptions.md R165), RET and CALL, and the step of each
entry of the schedule. -/

namespace Sys2Proof.Machine

theorem State.stalled_eq_false {s : State} : s.stalled = false ↔ s.fault = none ∧ s.pending = none := by
  simp [State.stalled]

theorem State.stalled_eq_true {s : State} : s.stalled = true ↔ s.fault ≠ none ∨ s.pending ≠ none := by
  simp [State.stalled, Option.isSome_iff_ne_none]

/-! ## The cycle step -/

theorem cycleStep_stalled {s : State} (h : s.stalled = true) : cycleStep s = .next s := if_pos h

theorem cycleStep_pcOutOfRange {s : State} (h : s.stalled = false) (hpc : 0xFFE < s.pc.toNat) :
    cycleStep s = .next (s.raise .pcOutOfRange) := by
  rw [cycleStep, if_neg (by simp [h])]
  exact if_pos hpc

theorem cycleStep_executes {s : State} (h : s.stalled = false) (hpc : s.pc.toNat ≤ 0xFFE) :
    cycleStep s = execDecoded (decode s.fetch) s.closeLoad := by
  rw [cycleStep, if_neg (by simp [h]), if_neg]
  exact Nat.not_lt.mpr hpc

/-- All that a cycle step can do (R165): stall, raise PcOutOfRange, run an instruction, or report UNKNOWN. -/
theorem cycleStep_cases (s : State) :
    (s.stalled = true ∧ cycleStep s = .next s) ∨
    (s.stalled = false ∧ 0xFFE < s.pc.toNat ∧ cycleStep s = .next (s.raise .pcOutOfRange)) ∨
    (s.stalled = false ∧ s.pc.toNat ≤ 0xFFE ∧ ∃ i, decode s.fetch = .instr i ∧ cycleStep s = exec i s.closeLoad) ∨
    (s.stalled = false ∧ s.pc.toNat ≤ 0xFFE ∧ ∃ op, decode s.fetch = .unknown op ∧
      cycleStep s = .next (s.closeLoad.report op).advance) := by
  cases h : s.stalled with
  | true => exact .inl ⟨rfl, cycleStep_stalled h⟩
  | false =>
    by_cases hpc : 0xFFE < s.pc.toNat
    · exact .inr (.inl ⟨rfl, hpc, cycleStep_pcOutOfRange h hpc⟩)
    · have hpc : s.pc.toNat ≤ 0xFFE := Nat.not_lt.mp hpc
      have he := cycleStep_executes h hpc
      cases hd : decode s.fetch with
      | instr i => exact .inr (.inr (.inl ⟨rfl, hpc, i, rfl, by rw [he, hd]; rfl⟩))
      | unknown op => exact .inr (.inr (.inr ⟨rfl, hpc, op, rfl, by rw [he, hd]; rfl⟩))

/-! ## RET and CALL -/

/-- All that RET can do (spec/40_flow.md R92). -/
theorem execRet_cases (s : State) :
    (s.sp.val = 0 ∧ execRet s = .next (s.raise .stackUnderflow)) ∨
    ∃ (j : Nat) (hj : j < 16) (t : State), s.sp.val = j + 1 ∧ execRet s = .next (t.setPc (s.stack[j] + 2#16)) ∧
      t.sp.val = j ∧ t = { s with sp := t.sp } := by
  rcases s.pop_eq with ⟨h, hp⟩ | ⟨j, hj, t, h, hp, hs, ht⟩
  · exact .inl ⟨h, by rw [execRet, hp]⟩
  · exact .inr ⟨j, hj, t, h, by rw [execRet, hp], hs, ht⟩

/-- All that CALL can do (spec/40_flow.md R93). -/
theorem execCall_cases (nnn : Addr) (s : State) :
    (s.sp.val = 16 ∧ execCall nnn s = .next (s.raise .stackOverflow)) ∨
    ∃ t : State, execCall nnn s = .next (t.setPc (zext16 nnn)) ∧ s.sp.val < 16 ∧ t.sp.val = s.sp.val + 1 ∧
      (∀ j (hj : j < 16), t.stack[j] = if j = s.sp.val then s.pc else s.stack[j]) ∧
      t = { s with stack := t.stack, sp := t.sp } := by
  rcases s.push_eq s.pc with ⟨h, hp⟩ | ⟨t, hp, h⟩
  · exact .inl ⟨h, by rw [execCall, hp]⟩
  · exact .inr ⟨t, by rw [execCall, hp], h⟩

/-! ## The step of each entry -/

theorem step_nil {s : State} (h : s.schedule = []) : step s = cycleStep s := by
  rw [step, nextStep, h]

theorem step_cons {s : State} {e : Event} {rest : List Event} (h : s.schedule = e :: rest) :
    step s = perform e (s.setSchedule rest) := by
  rw [step, nextStep, h]

/-- When the environment's next step is a cycle step, `step` is one, on the state with the entry taken. -/
theorem step_cycleNext {s : State} (h : s.cycleNext = true) : step s = cycleStep (s.setSchedule s.schedule.tail) := by
  cases hs : s.schedule with
  | nil =>
    rw [step_nil hs]
    congr 1
    rw [State.setSchedule, List.tail_nil, ← hs]
  | cons e rest =>
    cases e with
    | cycle => exact step_cons hs
    | _ => simp [State.cycleNext, hs] at h

end Sys2Proof.Machine
end

