-- ==== Sys2Proof/Tests/Slice0.lean ====
section
/-! SUPPORT. The model's own tests. Expected results come from spec/95_test_vectors.md, whose vector each test names (S, E, F, A, M,
G, K, B), or from the rule named. Then one witness for each hypothesis of a statement in
Sys2Proof/Certificates/Slice0/Obligations.lean. -/

namespace Sys2Proof.Tests

open Sys2Proof Sys2Proof.Machine

/-! ## Well-formedness -/

/-- R82: a low nibble other than 0 is not what an assembler writes. -/
theorem test_wf_refuses_seReg_lo : (Instr.seReg 1 2 1).wellFormed = false ∧ (Instr.seReg 1 2 0).wellFormed = true := by decide
theorem test_wf_refuses_sneReg_lo : (Instr.sneReg 1 2 7).wellFormed = false ∧ (Instr.sneReg 1 2 0).wellFormed = true := by decide
theorem test_wf_allows_shift_y : (Instr.shr 1 2).wellFormed = true ∧ (Instr.shl 1 15).wellFormed = true := by decide

/-! ## Decoding, each word bit by bit: family, then the fields -/

/-- E1, E2. -/
theorem test_decode_fam0 : decode 0b0000_0000_1110_0000 = .instr .cls ∧ decode 0b0000_0000_1110_1110 = .instr .ret := by decide
/-- E3 to E6. -/
theorem test_decode_fam0_unknown : decode 0x0000 = .unknown 0x0000 ∧ decode 0x00E1 = .unknown 0x00E1 ∧
    decode 0x01EE = .unknown 0x01EE ∧ decode 0x0123 = .unknown 0x0123 := by decide
/-- E7. -/
theorem test_decode_jp : decode 0b0001_0010_0011_0100 = .instr (.jp 0x234) := by decide
/-- E8. -/
theorem test_decode_call : decode 0b0010_1111_1111_1111 = .instr (.call 0xFFF) := by decide
/-- E9. -/
theorem test_decode_seImm : decode 0b0011_1010_0111_1011 = .instr (.seImm 10 0x7B) := by decide
/-- E10. -/
theorem test_decode_sneImm : decode 0b0100_1010_0111_1011 = .instr (.sneImm 10 0x7B) := by decide
/-- E11, E12. -/
theorem test_decode_seReg : decode 0b0101_1010_1011_0000 = .instr (.seReg 10 11 0) ∧
    decode 0b0101_1010_1011_1111 = .instr (.seReg 10 11 15) := by decide
/-- E13. -/
theorem test_decode_ldImm : decode 0b0110_1100_0000_0001 = .instr (.ldImm 12 0x01) := by decide
/-- E14. -/
theorem test_decode_addImm : decode 0b0111_1100_0000_0001 = .instr (.addImm 12 0x01) := by decide
/-- E15: LD, OR, AND, XOR. -/
theorem test_decode_fam8_logic :
    decode 0b1000_1010_1011_0000 = .instr (.ldReg 10 11) ∧ decode 0b1000_1010_1011_0001 = .instr (.orReg 10 11) ∧
    decode 0b1000_1010_1011_0010 = .instr (.andReg 10 11) ∧ decode 0b1000_1010_1011_0011 = .instr (.xorReg 10 11) := by decide
/-- E15, E16: ADD, SUB, SHR, SUBN, SHL. -/
theorem test_decode_fam8_arith :
    decode 0b1000_1010_1011_0100 = .instr (.addReg 10 11) ∧ decode 0b1000_1010_1011_0101 = .instr (.subReg 10 11) ∧
    decode 0b1000_1010_1011_0110 = .instr (.shr 10 11) ∧ decode 0b1000_1010_1011_0111 = .instr (.subnReg 10 11) ∧
    decode 0b1000_1010_1011_1110 = .instr (.shl 10 11) := by decide
/-- E17. -/
theorem test_decode_fam8_unknown : 
    ([0x8AB8, 0x8AB9, 0x8ABA, 0x8ABB, 0x8ABC, 0x8ABD, 0x8ABF] : List Word).all (fun op => decode op == .unknown op) = true := by
  decide
/-- E18. -/
theorem test_decode_sneReg : decode 0b1001_1010_1011_0000 = .instr (.sneReg 10 11 0) ∧
    decode 0b1001_1010_1011_0111 = .instr (.sneReg 10 11 7) := by decide
/-- E19. -/
theorem test_decode_ldI : decode 0b1010_0001_0010_0011 = .instr (.ldI 0x123) := by decide
/-- E20: bits 11:8 are address bits. -/
theorem test_decode_jpV0 : decode 0b1011_0001_0010_0011 = .instr (.jpV0 0x123) := by decide
/-- E21. -/
theorem test_decode_rnd : decode 0b1100_0101_1111_0000 = .instr (.rnd 5 0xF0) := by decide
/-- E22. -/
theorem test_decode_drw : decode 0b1101_0001_0010_1111 = .instr (.drw 1 2 15) := by decide
/-- E23, E24. -/
theorem test_decode_famE : decode 0b1110_0001_1001_1110 = .instr (.skp 1) ∧
    decode 0b1110_0001_1010_0001 = .instr (.sknp 1) := by decide
/-- E25. -/
theorem test_decode_famE_unknown : 
    ([0xE19F, 0xE1A0, 0xE10E, 0xE1AE, 0xE191] : List Word).all (fun op => decode op == .unknown op) = true := by
  decide
/-- E26: timers and key. -/
theorem test_decode_famF_timers :
    decode 0b1111_0001_0000_0111 = .instr (.ldVxDt 1) ∧ decode 0b1111_0001_0000_1010 = .instr (.ldVxK 1) ∧
    decode 0b1111_0001_0001_0101 = .instr (.ldDtVx 1) ∧ decode 0b1111_0001_0001_1000 = .instr (.ldStVx 1) := by decide
/-- E26, E28: I and memory. -/
theorem test_decode_famF_memory :
    decode 0b1111_0001_0001_1110 = .instr (.addI 1) ∧ decode 0b1111_0001_0010_1001 = .instr (.ldF 1) ∧
    decode 0b1111_0001_0011_0011 = .instr (.ldB 1) ∧ decode 0b1111_0001_0101_0101 = .instr (.ldMemVx 1) ∧
    decode 0b1111_1111_0110_0101 = .instr (.ldVxMem 15) := by decide
/-- E27. -/
theorem test_decode_famF_unknown : 
    ([0xF100, 0xF117, 0xF11F, 0xF156, 0xF175, 0xF185, 0xF1FF] : List Word).all (fun op => decode op == .unknown op) = true := by
  decide

/-- R52: the byte at PC is the high one, and what follows the two bytes is left. -/
theorem test_decode_bytes : decodeBytes [0x2F, 0xFF, 0x12] = .ok (.call 0xFFF, [0x12]) := by decide
/-- R70: one byte is no instruction. -/
theorem test_decode_truncated : decodeBytes [0x2F] = .error .truncated := by decide
theorem test_decodeTableWord : decodeTableWord 16 0xD12F = some (.drw 1 2 15) ∧ decodeTableWord 16 0x8128 = none := by decide
/-- SHL Vx written with y = 11 (R82: any y). -/
theorem test_encode_shl : encode (.shl 10 11) = 0b1000_1010_1011_1110 := by decide

/-- The 34 rows of spec/opcode_table.json, mask and match, in its order. -/
def tableRows : List (Word × Word) :=
  [(0xFFFF, 0x00E0), (0xFFFF, 0x00EE), (0xF000, 0x1000), (0xF000, 0x2000), (0xF000, 0x3000), (0xF000, 0x4000)] ++
  [(0xF000, 0x5000), (0xF000, 0x6000), (0xF000, 0x7000), (0xF00F, 0x8000), (0xF00F, 0x8001), (0xF00F, 0x8002)] ++
  [(0xF00F, 0x8003), (0xF00F, 0x8004), (0xF00F, 0x8005), (0xF00F, 0x8006), (0xF00F, 0x8007), (0xF00F, 0x800E)] ++
  [(0xF000, 0x9000), (0xF000, 0xA000), (0xF000, 0xB000), (0xF000, 0xC000), (0xF000, 0xD000), (0xF0FF, 0xE09E)] ++
  [(0xF0FF, 0xE0A1), (0xF0FF, 0xF007), (0xF0FF, 0xF00A), (0xF0FF, 0xF015), (0xF0FF, 0xF018), (0xF0FF, 0xF01E)] ++
  [(0xF0FF, 0xF029), (0xF0FF, 0xF033), (0xF0FF, 0xF055), (0xF0FF, 0xF065)]

/-- No two rows of the table overlap (R78: exactly one of the 34 instructions). -/
theorem test_rows_disjoint : tableRows.Pairwise (fun a b => a.1 &&& b.1 &&& (a.2 ^^^ b.2) ≠ 0) := by decide

/-! ## One step of one instruction -/

/-- Whether the next step from `s`, with `op` at PC, answers a next state that satisfies `p`. -/
def runs (s : State) (op : Nat) (p : State → Bool) : Bool :=
  match step (s.withFetchWord 16 op) with
  | .next t => p t
  | _ => false

/-- V[0] and V[1] as given, all else as after reset: PC = 0x0200. -/
def two (a b : Byte) : State := (State.reset.setV 0 a).setV 1 b

/-- As `two`, with I as given and the byte `m` there. -/
def atI (a b : Byte) (i : Word) (m : Byte) : State := ((two a b).setI i).writeMem (i.setWidth 12) m

/-- One pixel set, at row and column 0. -/
def oneDot (s : State) : State := { s with fb := s.fb.set 0 (s.fb[0].set 0 true) }

/-- G2v. -/
theorem test_cls_dirty : runs State.reset 0x00E0 (fun t => t.dirty && t.pc == 0x0202) = true := by decide
/-- G1v. -/
theorem test_cls_blanks : runs (oneDot State.reset) 0x00E0 (fun t => !pixel t.fb 0 0) = true := by decide
/-- F11. -/
theorem test_ret : runs { State.reset with sp := 1, stack := State.reset.stack.set 0 0x0204 } 0x00EE
    (fun t => t.pc == 0x0206 && t.sp == 0) = true := by decide
/-- F12. -/
theorem test_ret_underflow : runs State.reset 0x00EE (fun t => t.fault == some .stackUnderflow && t.pc == 0x0200) = true := by
  decide
/-- F1. -/
theorem test_jp : runs State.reset 0x1ABC (fun t => t.pc == 0x0ABC) = true := by decide
/-- F9. -/
theorem test_call_last : runs { State.reset with sp := 15, pc := 0x300 } 0x2400
    (fun t => t.stack[15] == 0x0300 && t.sp == 16 && t.pc == 0x0400) = true := by decide
/-- F10. -/
theorem test_call_overflow : runs { State.reset with sp := 16, pc := 0x300 } 0x2400
    (fun t => t.fault == some .stackOverflow && t.sp == 16 && t.pc == 0x0300) = true := by decide
/-- S5, S6. -/
theorem test_seImm : (runs (two 0x10 0) 0x3010 (fun t => t.pc == 0x0204) &&
    runs (two 0x11 0) 0x3010 (fun t => t.pc == 0x0202)) = true := by
  decide
/-- F14, F15. -/
theorem test_sneImm : (runs (two 0x10 0) 0x4010 (fun t => t.pc == 0x0202) &&
    runs (two 0x11 0) 0x4010 (fun t => t.pc == 0x0204)) = true := by
  decide
/-- F18, F19. -/
theorem test_seReg : (runs (two 7 8) 0x5010 (fun t => t.pc == 0x0202) && runs (two 7 7) 0x5011 (fun t => t.pc == 0x0204)) = true := by
  decide
/-- F21, F22. -/
theorem test_sneReg : (runs (two 7 8) 0x9010 (fun t => t.pc == 0x0204) && runs (two 7 7) 0x9010 (fun t => t.pc == 0x0202)) = true := by
  decide
/-- A2. -/
theorem test_ldImm : runs State.reset 0x6F05 (fun t => t.getV 15 == 0x05) = true := by decide
/-- S1b. -/
theorem test_addImm : runs (two 0xFF 0) 0x7002 (fun t => t.getV 0 == 0x01 && t.getV 15 == 0) = true := by decide
/-- A6. -/
theorem test_ldReg : runs ((two 0 0x33).setV 15 1) 0x8010 (fun t => t.getV 0 == 0x33 && t.getV 15 == 1) = true := by decide
/-- A7. -/
theorem test_orReg : runs ((two 0xF0 0x0F).setV 15 1) 0x8011 (fun t => t.getV 0 == 0xFF && t.getV 15 == 1) = true := by decide
/-- A8. -/
theorem test_andReg : runs ((two 0xF3 0x3F).setV 15 1) 0x8012 (fun t => t.getV 0 == 0x33 && t.getV 15 == 1) = true := by decide
/-- A9. -/
theorem test_xorReg : runs ((two 0xFF 0x0F).setV 15 1) 0x8013 (fun t => t.getV 0 == 0xF0 && t.getV 15 == 1) = true := by decide
/-- S1. -/
theorem test_addReg : runs (two 0xFF 0x02) 0x8014 (fun t => t.getV 0 == 0x01 && t.getV 15 == 1) = true := by decide
/-- A17: the flag wins. -/
theorem test_addReg_vf : runs ((two 0 0x02).setV 15 0xFF) 0x8F14 (fun t => t.getV 15 == 1) = true := by decide
/-- S3. -/
theorem test_subReg : runs (two 3 5) 0x8015 (fun t => t.getV 0 == 0xFE && t.getV 15 == 0) = true := by decide
/-- A19: strict. -/
theorem test_subReg_equal : runs (two 5 5) 0x8015 (fun t => t.getV 0 == 0 && t.getV 15 == 0) = true := by decide
/-- S4. -/
theorem test_shr : runs (two 0x05 0xFF) 0x8016 (fun t => t.getV 0 == 0x02 && t.getV 15 == 1 && t.getV 1 == 0xFF) = true := by
  decide
/-- A35. -/
theorem test_shr_vf : runs (State.reset.setV 15 0x03) 0x8F06 (fun t => t.getV 15 == 1) = true := by decide
/-- A27. -/
theorem test_subnReg : runs (two 5 3) 0x8017 (fun t => t.getV 0 == 0xFE && t.getV 15 == 0) = true := by decide
/-- A37. -/
theorem test_shl : runs (two 0x81 0) 0x800E (fun t => t.getV 0 == 0x02 && t.getV 15 == 1) = true := by decide
/-- A42. -/
theorem test_shl_vf : runs (State.reset.setV 15 0x01) 0x8F0E (fun t => t.getV 15 == 0) = true := by decide
/-- M2. -/
theorem test_ldI : runs State.reset 0xAFFF (fun t => t.i == 0x0FFF) = true := by decide
/-- F7. -/
theorem test_jpV0 : runs (two 0xFF 0) 0xBFFF (fun t => t.pc == 0x10FE) = true := by decide
/-- F6: V[0], not V[1]. -/
theorem test_jpV0_v0 : runs (two 0x01 0x50) 0xB123 (fun t => t.pc == 0x0124) = true := by decide
/-- A44, whatever the random byte is. -/
theorem test_rnd_zero_mask : ∀ s : State, ∃ t, exec (.rnd 3 0) s = .next t ∧ t.getV 3 = 0 := by
  intro s
  refine ⟨(s.draw.2.setV 3 (s.draw.1 &&& 0)).advance, rfl, ?_⟩
  rw [show s.draw.1 &&& (0 : Byte) = 0#8 from BitVec.and_zero]
  exact Vector.getElem_set_self (by decide)
/-- G8v: column wrap. -/
theorem test_drw_wrap : runs (atI 62 31 0x300 0xE0) 0xD011
    (fun t => pixel t.fb 31 62 && pixel t.fb 31 63 && pixel t.fb 31 0 && !pixel t.fb 31 1 && t.getV 15 == 0) = true := by
  decide
/-- G6v: one collision is enough. -/
theorem test_drw_collision : runs (oneDot (atI 0 0 0x300 0xC0)) 0xD011
    (fun t => !pixel t.fb 0 0 && pixel t.fb 0 1 && t.getV 15 == 1) = true := by decide
/-- K5: the index is taken modulo 16. -/
theorem test_skp : runs ((two 0x1A 0).setKeys 0x0400) 0xE09E (fun t => t.pc == 0x0204) = true := by decide
/-- K3, K4. -/
theorem test_sknp : (runs ((two 0x0A 0).setKeys 0x0400) 0xE0A1 (fun t => t.pc == 0x0202) &&
    runs (two 0x0A 0) 0xE0A1 (fun t => t.pc == 0x0204)) = true := by decide
/-- K6. -/
theorem test_ldVxDt : runs (State.reset.setDt 0x2C) 0xF507 (fun t => t.getV 5 == 0x2C && t.dt == 0x2C) = true := by decide
/-- K9. -/
theorem test_ldVxK : runs (State.reset.setV 3 0x55) 0xF30A
    (fun t => t.pending == some 3 && t.pc == 0x0202 && t.getV 3 == 0x55) = true := by decide
/-- K7. -/
theorem test_ldDtVx : runs (State.reset.setV 5 0x3C) 0xF515 (fun t => t.dt == 0x3C) = true := by decide
/-- K8. -/
theorem test_ldStVx : runs (State.reset.setV 5 0x02) 0xF518 (fun t => t.st == 0x02 && !t.audio) = true := by decide
/-- M3. -/
theorem test_addI : runs ((two 0 2).setI 0x0FFF) 0xF11E (fun t => t.i == 0x1001 && t.getV 15 == 0) = true := by decide
/-- M4. -/
theorem test_addI_wrap : runs ((two 0 1).setI 0xFFFF) 0xF11E (fun t => t.i == 0) = true := by decide
/-- M8: no masking. -/
theorem test_ldF : runs (State.reset.setV 4 0xFF) 0xF429 (fun t => t.i == 0x04FB) = true := by decide
/-- S8. -/
theorem test_ldB : runs ((two 0xEA 0).setI 0x300) 0xF033
    (fun t => t.readMem 0x300 == 2 && t.readMem 0x301 == 3 && t.readMem 0x302 == 4 && t.i == 0x300) = true := by decide
/-- M13: wrap into the font. -/
theorem test_ldB_wrap : runs ((two 0x7B 0).setI 0x0FFF) 0xF033
    (fun t => t.readMem 0xFFF == 1 && t.readMem 0x000 == 2 && t.readMem 0x001 == 3) = true := by decide
/-- M15: V[0] only. -/
theorem test_ldMemVx : runs ((two 0xAB 0xCD).setI 0x0400) 0xF055
    (fun t => t.readMem 0x400 == 0xAB && t.readMem 0x401 == 0 && t.i == 0x400) = true := by decide
/-- M18, for the default FONT, which State.reset has. -/
theorem test_ldVxMem : runs State.reset 0xF465
    (fun t => t.getV 0 == 0xF0 && t.getV 1 == 0x90 && t.getV 4 == 0xF0 && t.getV 5 == 0) = true := by decide

/-- R57: FONT is a parameter; here all 80 bytes are 0xAA, and the byte after them is 0. -/
theorem test_font_parameter : runs ((State.resetWith (Vector.replicate 80 0xAA)).setI 0x4D) 0xF365
    (fun t => t.getV 0 == 0xAA && t.getV 2 == 0xAA && t.getV 3 == 0) = true := by decide

/-! ## The other steps -/

/-- The step that the environment's one entry `e` asks for. -/
def after (s : State) (e : Event) (p : State → Bool) : Bool :=
  match step (s.setSchedule [e]) with
  | .next t => p t
  | _ => false

/-- S11. -/
theorem test_unknown : runs State.reset 0x8128 (fun t => t.reports == [0x8128] && t.pc == 0x0202) = true := by decide
/-- F26. -/
theorem test_pc_out_of_range : after (State.reset.setPc 0x1000) .cycle
    (fun t => t.fault == some .pcOutOfRange && t.pc == 0x1000) = true := by decide
/-- K15, K17: the tick runs also after a fault. -/
theorem test_tick : after { State.reset with dt := 9, st := 1, fault := some .stackOverflow } .tickActor
    (fun t => t.dt == 8 && t.st == 0 && t.audioDue == some 0) = true := by decide
/-- S10: no wrap below 0. -/
theorem test_tick_floor : after State.reset .tickActor (fun t => t.dt == 0 && t.st == 0) = true := by decide
/-- K18: the returned 2 counts, not ST. -/
theorem test_audio_update : after { State.reset with audioDue := some 2 } .tickActor
    (fun t => t.audio && t.st == 0 && t.audioDue == none) = true := by decide
/-- K12. -/
theorem test_key_press : after { State.reset with pending := some 15 } (.keyPress 3)
    (fun t => t.getV 15 == 3 && t.pending == none) = true := by decide
/-- K11. -/
theorem test_key_press_dropped : after State.reset (.keyPress 7) (fun t => t == State.reset) = true := by decide
/-- K19. -/
theorem test_key_update : after State.reset (.keyUpdate 0x0400) (fun t => t.keys == 0x0400) = true := by decide
/-- K20. -/
theorem test_dirty_consume : after { State.reset with dirty := true } .dirtyConsume (fun t => t == State.reset) = true := by
  decide
/-- R176: a display read changes nothing. -/
theorem test_display_read : after (oneDot State.reset) (.displayRead 0 0) (fun t => t == oneDot State.reset && t.fbQ 0 0) = true := by
  decide
/-- B2. -/
theorem test_rom_load : after State.reset (.romLoad [0x60, 0x2A, 0x12, 0x02])
    (fun t => t.readMem 0x200 == 0x60 && t.readMem 0x203 == 0x02 && t.readMem 0x204 == 0) = true := by decide
/-- B6. -/
theorem test_reset : after { State.reset with fault := some .stackUnderflow, pc := 0x300 } .reset
    (fun t => t == State.reset) = true := by
  decide

/-! ## Witnesses: states and operands that meet the hypotheses of the statements -/

/-- The state that `exec i` leaves from `s`, if it answers one. -/
def next (i : Instr) (s : State) : State :=
  match exec i s with
  | .next t => t
  | _ => s

/-- Whether an answer is the next state `t`. -/
def isNext (o : Result) (t : State) : Bool :=
  match o with
  | .next u => u == t
  | _ => false

theorem eq_of_isNext {o : Result} {t : State} (h : isNext o t = true) : o = .next t := by
  cases o with
  | next u => rw [eq_of_beq (show (u == t) = true from h)]
  | fault f => cases h
  | refused r => cases h

/-- AddRegistersSetsCarry, SubtractSetsGreater, SubtractReversedSetsGreater, ShiftRightIgnoresVy, ShiftLeftIgnoresVy, at the bounds of
the register numbers: 0, 14. -/
theorem witness_not_vf : (0 : RegIdx) ≠ 15#4 ∧ (14 : RegIdx) ≠ 15#4 := by decide

/-- RandomIsMaskedDraw: a mask with a 0 bit. -/
theorem witness_rnd_mask : (0xFE : Byte).getLsbD 0 = false := by decide

/-- BcdStoreWritesThreeDigits, RegisterDumpWritesV0ToVx: addresses outside the stored bytes, next to them. -/
theorem witness_outside_store :
    let s := State.reset.setI 0x0FFF
    ((0xFFE : Addr) ≠ s.ea 0 ∧ (0xFFE : Addr) ≠ s.ea 1 ∧ (0xFFE : Addr) ≠ s.ea 2) ∧
    ((0x002 : Addr) ≠ s.ea 0 ∧ (0x002 : Addr) ≠ s.ea 1 ∧ (0x002 : Addr) ≠ s.ea 2) ∧
    (∀ k : Nat, k ≤ (15 : RegIdx).toNat → (0x00F : Addr) ≠ s.ea k) ∧ (15 : RegIdx).toNat ≤ (15 : RegIdx).toNat := by
  refine ⟨by decide, by decide, ?_, by decide⟩
  have h : ∀ k < 16, (0x00F : Addr) ≠ (State.reset.setI 0x0FFF).ea k := by decide
  exact fun k hk => h k (Nat.lt_succ_of_le hk)

/-- DumpThenLoadRestoresRegisters: S9 without the overwriting, across the wrap. -/
theorem witness_dump_then_load :
    ∃ s t u w : State, exec (.ldMemVx 3) s = .next t ∧
      (∀ k : Nat, k ≤ (3 : RegIdx).toNat → u.ea k = s.ea k ∧ u.readMem (s.ea k) = t.readMem (s.ea k)) ∧
      exec (.ldVxMem 3) u = .next w ∧ s.getV 0 = 0x11 ∧ u.getV 0 = 0 :=
  ⟨(two 0x11 0x22).setI 0x0FFE, next (.ldMemVx 3) ((two 0x11 0x22).setI 0x0FFE),
    (next (.ldMemVx 3) ((two 0x11 0x22).setI 0x0FFE)).setV 0 0,
    next (.ldVxMem 3) ((next (.ldMemVx 3) ((two 0x11 0x22).setI 0x0FFE)).setV 0 0), rfl,
    fun _ _ => ⟨rfl, rfl⟩, rfl, by decide, by decide⟩

/-- DrawSpriteInvertsItsPixels: a pixel of the sprite that was set, one of it that was not, and one outside. -/
theorem witness_in_sprite :
    InSprite (oneDot (atI 0 0 0x300 0xC0)) 0 0 1 0 0 ∧ pixel (oneDot (atI 0 0 0x300 0xC0)).fb 0 0 = true ∧
    InSprite (atI 0 0 0x300 0xC0) 63 31 1 31 0 ∧ pixel (atI 0 0 0x300 0xC0).fb 31 0 = false :=
  ⟨⟨0, 0, by decide, by decide, by decide, by decide, by decide⟩, by decide,
    ⟨0, 1, by decide, by decide, by decide, by decide, by decide⟩, by decide⟩

theorem witness_empty_sprite : ∀ py px, ¬ InSprite State.reset 0 0 0 py px := by
  rintro py px ⟨r, c, hr, _⟩
  exact Nat.not_lt_zero r hr

/-- DrawTwiceRestoresFrame: S7. -/
theorem witness_draw_twice : ∃ s t u : State, (0 : RegIdx) ≠ 15#4 ∧ (1 : RegIdx) ≠ 15#4 ∧
    exec (.drw 0 1 5) s = .next t ∧ exec (.drw 0 1 5) t = .next u :=
  ⟨State.reset, next (.drw 0 1 5) State.reset, next (.drw 0 1 5) (next (.drw 0 1 5) State.reset), by decide, by decide, rfl, rfl⟩

/-- RegisterSkipsAdvanceByFourOrTwo, last clause: a skip at PC = 0xFFE, taken or not. -/
theorem witness_skip_at_the_end :
    let s := State.reset.setPc 0xFFE
    s.fault = none ∧ s.pending = none ∧ s.pc = 0xFFE ∧ exec (.seImm 1 0) s = .next (next (.seImm 1 0) s) ∧
    exec (.sneImm 1 0) s = .next (next (.sneImm 1 0) s) ∧ exec (.seReg 1 2 3) s = .next (next (.seReg 1 2 3) s) ∧
    exec (.sneReg 1 2 3) s = .next (next (.sneReg 1 2 3) s) := ⟨rfl, rfl, rfl, rfl, rfl, rfl, rfl⟩

/-- JumpSetsPc, last clause: F3. -/
theorem witness_jump_to_fff : (0xFFF : Addr) = 0xFFF ∧ State.reset.fault = none ∧ State.reset.pending = none := by decide

/-- CallPushesOwnAddress, at both ends of the depth: 0 and 15. -/
theorem witness_call_room : (State.reset.sp.val < 16 ∧ State.reset.sp.val = 0) ∧
    ({ State.reset with sp := 15 } : State).sp.val < 16 := by decide

/-- ReturnPopsAndAddsTwo, at both ends: one entry and sixteen. -/
theorem witness_ret_entry : ({ State.reset with sp := 1 } : State).sp.val = (0 : Fin 16).val + 1 ∧
    ({ State.reset with sp := 16 } : State).sp.val = (15 : Fin 16).val + 1 := by decide

/-- StackMisuseSetsOnlyFault, both clauses. -/
theorem witness_stack_misuse : ({ State.reset with sp := 16 } : State).sp.val = 16 ∧ State.reset.sp.val = 0 := by decide

/-- ReturnGoesAfterItsCall: at depth 15, the deepest a CALL may start from. -/
theorem witness_call_then_ret : ∃ s t u w : State, s.sp.val < 16 ∧ exec (.call 0x300) s = .next t ∧ u.stack = t.stack ∧
    u.sp = t.sp ∧ exec .ret u = .next w ∧ s.sp.val = 15 :=
  ⟨{ State.reset with sp := 15 }, next (.call 0x300) { State.reset with sp := 15 },
    (next (.call 0x300) { State.reset with sp := 15 }).setV 0 1,
    next .ret ((next (.call 0x300) { State.reset with sp := 15 }).setV 0 1), by decide, rfl, rfl, rfl, rfl, rfl⟩

/-- PcLawHoldsOfEveryInstruction: a RET that pops, a CALL that pushes, a RET that faults, an UNKNOWN. -/
theorem witness_pc_law :
    (exec .ret { State.reset with sp := 1 } = .next (next .ret { State.reset with sp := 1 }) ∧
      (next .ret { State.reset with sp := 1 }).fault = none ∧ ({ State.reset with sp := 1 } : State).sp.val ≠ 0) ∧
    (exec (.call 0) State.reset = .next (next (.call 0) State.reset) ∧
      (next (.call 0) State.reset).fault = State.reset.fault ∧ State.reset.sp.val ≠ 16) ∧
    (exec .ret State.reset = .next (next .ret State.reset) ∧ (next .ret State.reset).fault ≠ State.reset.fault) ∧
    execUnknown 0x0123 State.reset = .next ((State.reset.report 0x0123).advance) :=
  ⟨⟨rfl, rfl, by decide⟩, ⟨rfl, rfl, by decide⟩, ⟨rfl, by decide⟩, rfl⟩

/-- StepRunsDecodedInstruction, at PC = 0xFFE, with a cycle asked for and with an empty schedule: F25. -/
theorem witness_step_runs :
    let s := ((State.reset.setPc 0xFFE).writeMem 0xFFE 0x60).writeMem 0xFFF 0x01
    (s.cycleNext = true ∧ (s.setSchedule [.cycle]).cycleNext = true ∧ 
      s.fault = none ∧ s.pending = none ∧ s.pc.toNat ≤ 0xFFE) ∧
    decodeBytes [s.readMem (BitVec.ofNat 12 s.pc.toNat), s.readMem (BitVec.ofNat 12 (s.pc.toNat + 1))] =
      .ok (.ldImm 0 1, []) := by decide

/-- UnknownOpcodeIsReportedNoOp: the zeroed memory after reset, F29. -/
theorem witness_unknown :
    let s := State.reset
    (s.cycleNext = true ∧ s.fault = none ∧ s.pending = none ∧ s.pc.toNat ≤ 0xFFE) ∧
    decodeBytes [s.readMem (BitVec.ofNat 12 s.pc.toNat), s.readMem (BitVec.ofNat 12 (s.pc.toNat + 1))] =
      .error (.unknownOpcode 0) := by decide

/-- StalledCycleStepChangesNothing: F27, F28. -/
theorem witness_stalled :
    (({ State.reset with fault := some .pcOutOfRange } : State).cycleNext = true ∧
      ({ State.reset with fault := some .pcOutOfRange } : State).fault ≠ none) ∧
    ({ State.reset with pending := some 4 } : State).cycleNext = true ∧
      ({ State.reset with pending := some 4 } : State).pending ≠ none := by decide

/-- PcBeyondMemoryFaults, at the lowest such PC, 0xFFF, and at the highest, 0x10FE. -/
theorem witness_pc_beyond :
    ((State.reset.setPc 0xFFF).cycleNext = true ∧ (State.reset.setPc 0xFFF).fault = none ∧
      (State.reset.setPc 0xFFF).pending = none ∧ 0xFFE < (State.reset.setPc 0xFFF).pc.toNat) ∧
    0xFFE < (State.reset.setPc 0x10FE).pc.toNat := by decide

/-- FaultingStepWritesOnlyFault: PC out of range. -/
theorem witness_faulting_pc :
    let s := State.reset.setPc 0x1000
    s.fault = none ∧ cycleStep s = .next { s with fault := some .pcOutOfRange } := ⟨rfl, eq_of_isNext (by decide)⟩
/-- FaultingStepWritesOnlyFault: a CALL at depth 16. -/
theorem witness_faulting_call :
    let s := { State.reset.withFetchWord 16 0x2400 with sp := 16 }
    s.fault = none ∧ cycleStep s = .next { s with fault := some .stackOverflow } := ⟨rfl, eq_of_isNext (by decide)⟩
/-- FaultingStepWritesOnlyFault: a RET at depth 0. -/
theorem witness_faulting_ret :
    let s := State.reset.withFetchWord 16 0x00EE
    s.fault = none ∧ cycleStep s = .next { s with fault := some .stackUnderflow } := ⟨rfl, eq_of_isNext (by decide)⟩

/-- StoreIsSeenByNextFetch: P7's fourth step, V[0] and V[1] stored at PC + 2. -/
theorem witness_store_seen :
    let s := ((two 0x12 0x08).setI 0x208).setPc 0x206
    (0 : RegIdx).toNat + 1 ≤ (1 : RegIdx).toNat ∧ exec (.ldMemVx 1) s = .next (next (.ldMemVx 1) s) ∧
    s.i.toNat + (0 : RegIdx).toNat = (next (.ldMemVx 1) s).pc.toNat ∧ (next (.ldMemVx 1) s).pc.toNat ≤ 0xFFE :=
  ⟨by decide, rfl, by decide, by decide⟩

/-- OnlyListedInstructionsWriteV and OnlyNamedInstructionsWriteState. -/
theorem witness_writers : exec (.addReg 3 4) State.reset = .next (next (.addReg 3 4) State.reset) ∧
    mayWriteV (.addReg 3 4) 14 = false ∧ mayWriteV (.ldVxMem 3) 4 = false := ⟨rfl, by decide, by decide⟩

/-- HighBitsOfIAreUnobservable: M14's I. -/
theorem witness_high_bits : (0x1300 : Word).toNat % 4096 = (State.reset.setI 0x300).i.toNat % 4096 ∧
    exec (.ldB 0) (State.reset.setI 0x300) = .next (next (.ldB 0) (State.reset.setI 0x300)) := ⟨by decide, rfl⟩

/-- TickCommutesWithCycle: an instruction that leaves the timers alone, an UNKNOWN, and a stalled machine. -/
theorem witness_tick_commutes :
    let s := State.reset.withFetchWord 16 0x6A01
    (∃ t, cycleStep s = .next t) ∧ (∀ i, decode s.fetch = .instr i → touchesTimers i = false) := by
  have h : decode (State.reset.withFetchWord 16 0x6A01).fetch = .instr (.ldImm 10 1) := by decide
  refine ⟨⟨next (.ldImm 10 1) (State.reset.withFetchWord 16 0x6A01), eq_of_isNext (by decide)⟩, ?_⟩
  intro i hi
  rw [h] at hi
  cases hi
  rfl

/-- EncodeDecodeRoundTrip: an instruction with an ignored nibble, and an UNKNOWN. -/
theorem witness_decode : decode 0x5ABF = .instr (.seReg 10 11 15) ∧ decode 0x01EE = .unknown 0x01EE := by decide

/-- TickDecrementsBothTimers, AudioUpdateUsesReturnedValue. -/
theorem witness_tick_actor :
    let s := State.reset.setSchedule [.tickActor]
    (s.schedule = .tickActor :: [] ∧ s.audioDue = none) ∧
    (s.owesAudio 0).schedule = .tickActor :: [] ∧ (s.owesAudio 0).audioDue = some 0 := by decide

/-- KeyPressReachesAwaitingRegister, both clauses; V[0] and V[15]. -/
theorem witness_key_press :
    let s := State.reset.setSchedule [.keyPress 15]
    (s.schedule = .keyPress 15 :: [] ∧ s.pending = none) ∧
    (s.setPending (some 0)).schedule = .keyPress 15 :: [] ∧ (s.setPending (some 0)).pending = some 0 ∧
    (s.setPending (some 15)).pending = some 15 := by decide

/-- KeyUpdateAndDirtyConsume. -/
theorem witness_key_update : (State.reset.setSchedule [.keyUpdate 0xFFFF]).schedule = .keyUpdate 0xFFFF :: [] ∧
    (State.reset.setSchedule [.dirtyConsume]).schedule = .dirtyConsume :: [] := by decide

/-- RomLoadCopiesImageOnce: the largest image, one byte more, and a second load. -/
theorem witness_rom_load :
    let img := List.replicate 3584 (0x12 : Byte)
    let s := State.reset.setSchedule [.romLoad img]
    (s.schedule = .romLoad img :: [] ∧ s.romLoadable = true ∧ img.length ≤ 3584) ∧
    3584 < (List.replicate 3585 (0x12 : Byte)).length ∧ s.closeLoad.romLoadable = false := by
  refine ⟨⟨rfl, rfl, ?_⟩, ?_, rfl⟩
  · rw [List.length_replicate]
  · rw [List.length_replicate]; decide

/-- The clauses about bytes: the last byte of the largest image, and the addresses next to a small one. -/
theorem witness_rom_bytes : (3583 < (List.replicate 3584 (0x12 : Byte)).length) ∧ (0x1FF : Addr).toNat < 0x200 ∧
    0x200 + [(0x12 : Byte)].length ≤ (0x201 : Addr).toNat := by
  refine ⟨?_, by decide, by decide⟩
  rw [List.length_replicate]; decide

/-- ResetStepLeavesResetState: from the fault halt. -/
theorem witness_reset_step :
    ({ State.reset with fault := some .stackOverflow, schedule := [.reset, .cycle] } : State).schedule =
      .reset :: [.cycle] := by decide

/-- HaltAndWaitAreLeftOnlyAsStated: a halted machine. -/
theorem witness_halt :
    let s := { State.reset with fault := some .stackOverflow, romLoadable := false }
    step s = .next s ∧ s.schedule.head? ≠ some .reset ∧ s.romLoadable = false ∧ s.fault = some .stackOverflow :=
  ⟨rfl, by decide, rfl, rfl⟩
/-- HaltAndWaitAreLeftOnlyAsStated: a waiting machine. -/
theorem witness_wait :
    let s := { State.reset with pending := some 3, romLoadable := false }
    step s = .next s ∧ s.schedule.head? ≠ some .reset ∧ s.romLoadable = false ∧ s.pending = some 3 ∧ s.pending ≠ some 4 :=
  ⟨rfl, by decide, rfl, rfl, by decide⟩

/-- EveryStepKeepsInv: the machine after reset, whose first step answers a next state. -/
theorem witness_inv : State.reset.Inv ∧ ∃ t, step State.reset = .next t :=
  ⟨{ memory := rfl, latches := .inl rfl, pcBounded := by decide, liveEntries := fun _ h => absurd h (Nat.not_lt_zero _),
     notStarted := fun _ => ⟨rfl, rfl, rfl, rfl, rfl⟩ },
    (State.reset.closeLoad.report 0).advance, eq_of_isNext (by decide)⟩

/-- FontIsConstantAndLdFFindsItsGlyphs: digits 0 and 15 after reset; that an untouched font area is FONT holds for every FONT. -/
theorem witness_font_area :
    ((State.reset.setV 4 0).getV 4).toNat < 16 ∧ ((State.reset.setV 4 15).getV 4).toNat < 16 ∧
    ∀ a : Addr, ∀ h : a.toNat < 80, (State.reset.setV 4 15).readMem a = (State.reset.setV 4 15).font[a.toNat] :=
  ⟨by decide, by decide, fun _ h => memInitial_of_lt h⟩

end Sys2Proof.Tests
end

section
/-! PROOF. Control transfer that writes nothing but PC: JP, and the register and immediate skips (spec/40_flow.md R94,
R96 to R99). -/

namespace Sys2Proof.Machine

/-! ## Updates of PC alone -/

theorem onlyPc_setPc (s : State) (w : Word) : OnlyPc s (s.setPc w) :=
  ⟨rfl, s.setPc_getV w, s.setPc_readMem w⟩

theorem onlyPc_skipIf (s : State) (c : Bool) : OnlyPc s (s.skipIf c) :=
  ⟨rfl, s.skipIf_getV c, s.skipIf_readMem c⟩

/-- No latch moves with PC, so the cycle step stays enabled or disabled (R90). -/
theorem OnlyPc.stalled_eq {s t : State} (h : OnlyPc s t) : t.stalled = s.stalled := by
  obtain ⟨hframe, -, -⟩ := h
  rw [hframe]
  rfl

/-- Moving PC alone beyond the last fetch address makes the next cycle step raise PcOutOfRange (R90). -/
theorem OnlyPc.cycleStep_raises {s t : State} (h : OnlyPc s t) (hf : s.fault = none) (hp : s.pending = none)
    (hpc : 0xFFE < t.pc.toNat) : ∃ u, cycleStep t = .next u ∧ u.fault = some .pcOutOfRange :=
  have hrun : t.stalled = false := h.stalled_eq.trans (State.stalled_eq_false.mpr ⟨hf, hp⟩)
  ⟨t.raise .pcOutOfRange, cycleStep_pcOutOfRange hrun hpc, t.raise_fault .pcOutOfRange⟩

/-! ## JP -/

theorem exec_jp (nnn : Addr) (s : State) : exec (.jp nnn) s = .next (s.setPc (zext16 nnn)) := rfl

/-! ## The four skips are `skipIf` of their condition -/

theorem exec_seImm (x : RegIdx) (kk : Byte) (s : State) :
    exec (.seImm x kk) s = .next (s.skipIf (s.getV x == kk)) := rfl

theorem exec_sneImm (x : RegIdx) (kk : Byte) (s : State) :
    exec (.sneImm x kk) s = .next (s.skipIf (s.getV x != kk)) := rfl

theorem exec_seReg (x y : RegIdx) (lo : BitVec 4) (s : State) :
    exec (.seReg x y lo) s = .next (s.skipIf (s.getV x == s.getV y)) := rfl

theorem exec_sneReg (x y : RegIdx) (lo : BitVec 4) (s : State) :
    exec (.sneReg x y lo) s = .next (s.skipIf (s.getV x != s.getV y)) := rfl

section Skip

variable {s : State} {i : Instr} {c : Bool} (he : exec i s = .next (s.skipIf c))
include he

/-- An instruction that answers `skipIf c` moves PC by 4 or 2 as `c` says, and nothing else. -/
theorem exec_skip_onlyPc {P : Prop} [Decidable P] (hc : c = true ↔ P) :
    ∃ t, exec i s = .next t ∧ OnlyPc s t ∧ t.pc = if P then s.pc + 4 else s.pc + 2 :=
  ⟨s.skipIf c, he, onlyPc_skipIf s c, (s.skipIf_pc c).trans (if_congr hc rfl rfl)⟩

/-- From 0xFFE a skip leaves PC at 0x1002 or 0x1000, both beyond the last fetch address (R96, corner case). -/
theorem cycleStep_raises_after_skip {t : State} (ht : exec i s = .next t) (hf : s.fault = none)
    (hp : s.pending = none) (hpc : s.pc = 0xFFE) : ∃ u, cycleStep t = .next u ∧ u.fault = some .pcOutOfRange := by
  obtain rfl : s.skipIf c = t := Host.Outcome.next.inj (he.symm.trans ht)
  refine (onlyPc_skipIf s c).cycleStep_raises hf hp ?_
  rw [State.skipIf_pc, hpc]
  cases c with
  | true => decide
  | false => decide

end Skip

/-! ## The statements -/

/-- Settles O26: each of the four is `skipIf` of its comparison, and `skipIf` from 0xFFE leaves the fetch range either way. -/
theorem registerSkipsAdvanceByFourOrTwo : Obligations.RegisterSkipsAdvanceByFourOrTwo := by
  intro s x y kk lo
  refine ⟨exec_skip_onlyPc (exec_seImm x kk s) beq_iff_eq, exec_skip_onlyPc (exec_sneImm x kk s) bne_iff_ne,
    exec_skip_onlyPc (exec_seReg x y lo s) beq_iff_eq, exec_skip_onlyPc (exec_sneReg x y lo s) bne_iff_ne, ?_⟩
  intro hf hp hpc i t ht hi
  rcases hi with rfl | rfl | rfl | rfl
  · exact cycleStep_raises_after_skip (exec_seImm x kk s) ht hf hp hpc
  · exact cycleStep_raises_after_skip (exec_sneImm x kk s) ht hf hp hpc
  · exact cycleStep_raises_after_skip (exec_seReg x y lo s) ht hf hp hpc
  · exact cycleStep_raises_after_skip (exec_sneReg x y lo s) ht hf hp hpc

/-- Settles O27: JP is `setPc` of the zero-extended target, which reads back as `nnn` and at 0xFFF is beyond the last
fetch address. -/
theorem jumpSetsPc : Obligations.JumpSetsPc := by
  intro s nnn
  have hpc : (s.setPc (zext16 nnn)).pc.toNat = nnn.toNat := zext16_addr_toNat nnn
  refine ⟨s.setPc (zext16 nnn), exec_jp nnn s, hpc, onlyPc_setPc s _, ?_⟩
  rintro rfl hf hp
  refine (onlyPc_setPc s _).cycleStep_raises hf hp ?_
  rw [hpc]
  decide

end Sys2Proof.Machine
end

section
/-! PROOF. Register load, arithmetic and shifts (spec/41_alu.md R112 to R114, R118 to R122). Every instruction here ends in one of
two writes, `setV` (no flag) or `setResultFlag` (result, then flag, R111), followed by `advance`; what each of the two can do is
said once, and an instruction's statement adds only the value it computes. -/

namespace Sys2Proof.Machine

/-! ## Flags and results as numbers -/

theorem flagByte_decide (p : Prop) [Decidable p] : flagByte (decide p) = if p then 1 else 0 :=
  if_congr decide_eq_true_iff rfl rfl

theorem flagByte_carryOut (a b : Byte) : flagByte (carryOut a b) = if a.toNat + b.toNat > 255 then 1 else 0 :=
  flagByte_decide _

theorem flagByte_greater (a b : Byte) : flagByte (greater a b) = if a.toNat > b.toNat then 1 else 0 :=
  flagByte_decide _

/-- The difference modulo 256 in the form R119 gives it; the minuend is raised by 256 so that it does not fall below 0. -/
theorem byte_sub_toNat (a b : Byte) : (a - b).toNat = (a.toNat + 256 - b.toNat) % 256 := by
  have hb := b.isLt
  rw [BitVec.toNat_sub', ← Nat.add_sub_assoc hb.le]

theorem byte_shiftRight_one_toNat (a : Byte) : (a >>> 1).toNat = a.toNat / 2 := by
  rw [BitVec.toNat_ushiftRight, Nat.shiftRight_eq_div_pow, pow_one]

theorem byte_shiftLeft_one_toNat (a : Byte) : (a <<< 1).toNat = a.toNat * 2 % 256 := by
  rw [BitVec.toNat_shiftLeft, Nat.shiftLeft_eq, pow_one]

/-! ## What each instruction writes -/

theorem exec_ldImm (x : RegIdx) (kk : Byte) (s : State) : exec (.ldImm x kk) s = .next (s.setV x kk).advance := rfl

theorem exec_addImm (x : RegIdx) (kk : Byte) (s : State) :
    exec (.addImm x kk) s = .next (s.setV x (s.getV x + kk)).advance := rfl

theorem exec_ldReg (x y : RegIdx) (s : State) : exec (.ldReg x y) s = .next (s.setV x (s.getV y)).advance := rfl

theorem exec_addReg (x y : RegIdx) (s : State) : exec (.addReg x y) s =
    .next (s.setResultFlag x (s.getV x + s.getV y) (carryOut (s.getV x) (s.getV y))).advance := rfl

theorem exec_subReg (x y : RegIdx) (s : State) : exec (.subReg x y) s =
    .next (s.setResultFlag x (s.getV x - s.getV y) (greater (s.getV x) (s.getV y))).advance := rfl

theorem exec_subnReg (x y : RegIdx) (s : State) : exec (.subnReg x y) s =
    .next (s.setResultFlag x (s.getV y - s.getV x) (greater (s.getV y) (s.getV x))).advance := rfl

theorem exec_shr (x y : RegIdx) (s : State) :
    exec (.shr x y) s = .next (s.setResultFlag x (s.getV x >>> 1) (lowBit (s.getV x))).advance := rfl

theorem exec_shl (x y : RegIdx) (s : State) :
    exec (.shl x y) s = .next (s.setResultFlag x (s.getV x <<< 1) (highBit (s.getV x))).advance := rfl

/-! ## The two writes -/

section Write

variable {s : State} {i : Instr} {x : RegIdx} {b : Byte}

/-- An instruction that answers `setV` and `advance` writes V[x], moves PC by 2, and nothing else. -/
theorem exec_setV_effect (he : exec i s = .next (s.setV x b).advance) :
    ∃ t, exec i s = .next t ∧ (∀ r, t.getV r = if r = x then b else s.getV r) ∧ t.pc = s.pc + 2 ∧ OnlyRegsPc s t :=
  ⟨(s.setV x b).advance, he, fun r => s.getV_setV x r b, rfl, rfl, s.setV_readMem x b⟩

/-- An instruction that answers `setResultFlag` and `advance` writes V[x] and VF, moves PC by 2, and nothing else; when x = 15
the flag stays and the result is lost (R111). -/
theorem exec_setResultFlag_effect {f : Bool} (he : exec i s = .next (s.setResultFlag x b f).advance) :
    ∃ t, exec i s = .next t ∧ (x ≠ 15#4 → t.getV x = b) ∧ t.getV 15#4 = flagByte f ∧
      (∀ r, r ≠ x → r ≠ 15#4 → t.getV r = s.getV r) ∧ t.pc = s.pc + 2 ∧ OnlyRegsPc s t := by
  have hread := fun r => s.getV_setResultFlag x r b f
  refine ⟨(s.setResultFlag x b f).advance, he, ?_, ?_, ?_, rfl, rfl, s.setResultFlag_readMem x b f⟩
  · intro hx
    exact (hread x).trans ((if_neg hx).trans (if_pos rfl))
  · exact (hread vf).trans (if_pos rfl)
  · intro r hrx hrf
    exact (hread r).trans ((if_neg hrf).trans (if_neg hrx))

/-- SUB and SUBN differ only in which source is the minuend `a`: the difference modulo 256, and the strict flag, 0 at
equality (R110, R119, R120). -/
theorem exec_subtract_effect {a c : Byte} (he : exec i s = .next (s.setResultFlag x (a - c) (greater a c)).advance) :
    ∃ t, exec i s = .next t ∧ (x ≠ 15#4 → (t.getV x).toNat = (a.toNat + 256 - c.toNat) % 256) ∧
      t.getV 15#4 = (if a.toNat > c.toNat then 1 else 0) ∧
      (∀ r, r ≠ x → r ≠ 15#4 → t.getV r = s.getV r) ∧ t.pc = s.pc + 2 ∧ OnlyRegsPc s t := by
  obtain ⟨t, ht, hx, hf, hframe⟩ := exec_setResultFlag_effect he
  refine ⟨t, ht, fun h => ?_, hf.trans (flagByte_greater a c), hframe⟩
  rw [hx h, byte_sub_toNat]

end Write

/-! ## The statements without a flag -/

/-- Settles O1: LD Vx,kk is `setV` of the literal. -/
theorem loadImmediateWritesVx : Obligations.LoadImmediateWritesVx :=
  fun s x kk => exec_setV_effect (exec_ldImm x kk s)

/-- Settles O3: LD Vx,Vy is `setV` of V[y]. -/
theorem assignCopiesVyToVx : Obligations.AssignCopiesVyToVx :=
  fun s x y => exec_setV_effect (exec_ldReg x y s)

/-- Settles O2: ADD Vx,kk is `setV` of the byte sum, which is the sum modulo 256. -/
theorem addImmediateWrapsWithoutFlag : Obligations.AddImmediateWrapsWithoutFlag := by
  intro s x kk
  obtain ⟨t, he, hread, hframe⟩ := exec_setV_effect (exec_addImm x kk s)
  have hx : t.getV x = s.getV x + kk := (hread x).trans (if_pos rfl)
  refine ⟨t, he, ?_, fun r hr => (hread r).trans (if_neg hr), hframe⟩
  rw [hx, BitVec.toNat_add]

/-! ## The statements with a flag -/

/-- Settles O5: the byte sum is the sum modulo 256, and `carryOut` compares the exact sum with 255. -/
theorem addRegistersSetsCarry : Obligations.AddRegistersSetsCarry := by
  intro s x y
  obtain ⟨t, he, hx, hf, hframe⟩ := exec_setResultFlag_effect (exec_addReg x y s)
  refine ⟨t, he, fun h => ?_, hf.trans (flagByte_carryOut _ _), hframe⟩
  rw [hx h, BitVec.toNat_add]

/-- Settles O6: the minuend is V[x]. -/
theorem subtractSetsGreater : Obligations.SubtractSetsGreater :=
  fun s x y => exec_subtract_effect (exec_subReg x y s)

/-- Settles O7: the minuend is V[y], the destination still V[x]. -/
theorem subtractReversedSetsGreater : Obligations.SubtractReversedSetsGreater :=
  fun s x y => exec_subtract_effect (exec_subnReg x y s)

/-- Settles O8: the result and the flag are both functions of V[x] alone, so y takes no part. -/
theorem shiftRightIgnoresVy : Obligations.ShiftRightIgnoresVy := by
  intro s x y
  obtain ⟨t, he, hx, hf, hframe⟩ := exec_setResultFlag_effect (exec_shr x y s)
  refine ⟨t, he, fun h => ?_, ?_, hframe⟩
  · rw [hx h, byte_shiftRight_one_toNat]
  · exact (congrArg BitVec.toNat hf).trans (flagByte_lowBit_toNat _)

/-- Settles O9: the result and the flag are both functions of V[x] alone, so y takes no part. -/
theorem shiftLeftIgnoresVy : Obligations.ShiftLeftIgnoresVy := by
  intro s x y
  obtain ⟨t, he, hx, hf, hframe⟩ := exec_setResultFlag_effect (exec_shl x y s)
  refine ⟨t, he, fun h => ?_, ?_, hframe⟩
  · rw [hx h, byte_shiftLeft_one_toNat]
  · exact (congrArg BitVec.toNat hf).trans (flagByte_highBit_toNat _)

end Sys2Proof.Machine
end

section
/-! PROOF. The address register literal and the BCD store (spec/42_index_memory.md R131, R134). -/

namespace Sys2Proof.Machine

/-! ## LD I,nnn -/

theorem exec_ldI (nnn : Addr) (s : State) : exec (.ldI nnn) s = .next (s.setI (zext16 nnn)).advance := rfl

/-- Writing I and moving on touches no register and no byte (R130, R131). -/
theorem onlyIPc_setI_advance (s : State) (w : Word) : OnlyIPc s (s.setI w).advance :=
  ⟨rfl, s.setI_getV w, s.setI_readMem w⟩

/-! ## LD B,Vx: what each address reads after the store -/

theorem exec_ldB (x : RegIdx) (s : State) : exec (.ldB x) s = .next (s.storeBcd (s.getV x)).advance := rfl

section Bcd

variable (s : State) (b : Byte)

theorem State.storeBcd_getV (r : RegIdx) : (s.storeBcd b).getV r = s.getV r := rfl

theorem State.readMem_storeBcd_units : (s.storeBcd b).readMem (s.ea 2) = units b := by
  rw [State.readMem_storeBcd, if_pos rfl]

/-- EA(1) is not EA(2), also across the wrap (R54), so the later store leaves the tens. -/
theorem State.readMem_storeBcd_tens : (s.storeBcd b).readMem (s.ea 1) = tens b := by
  have h12 : s.ea 1 ≠ s.ea 2 := by simp [State.ea_inj]
  rw [State.readMem_storeBcd, if_neg h12, if_pos rfl]

/-- EA(0) is neither EA(1) nor EA(2), also across the wrap (R54), so the two later stores leave the hundreds. -/
theorem State.readMem_storeBcd_hundreds : (s.storeBcd b).readMem (s.ea 0) = hundreds b := by
  have h01 : s.ea 0 ≠ s.ea 1 := by simp [State.ea_inj]
  have h02 : s.ea 0 ≠ s.ea 2 := by simp [State.ea_inj]
  rw [State.readMem_storeBcd, if_neg h02, if_neg h01, if_pos rfl]

theorem State.readMem_storeBcd_other {a : Addr} (h0 : a ≠ s.ea 0) (h1 : a ≠ s.ea 1) (h2 : a ≠ s.ea 2) :
    (s.storeBcd b).readMem a = s.readMem a := by
  rw [State.readMem_storeBcd, if_neg h2, if_neg h1, if_neg h0]

end Bcd

/-! ## The statements -/

/-- Settles O14: LD B,Vx is `storeBcd` of V[x], whose three addresses are distinct, so each keeps its own digit. -/
theorem bcdStoreWritesThreeDigits : Obligations.BcdStoreWritesThreeDigits := by
  intro s x
  refine ⟨(s.storeBcd (s.getV x)).advance, exec_ldB x s, ?_, ?_, ?_, ?_, rfl, rfl, s.storeBcd_getV (s.getV x)⟩
  · rw [State.advance_readMem, State.readMem_storeBcd_hundreds, hundreds_toNat]
  · rw [State.advance_readMem, State.readMem_storeBcd_tens, tens_toNat]
  · rw [State.advance_readMem, State.readMem_storeBcd_units, units_toNat]
  · exact fun a => s.readMem_storeBcd_other (s.getV x)

/-- Settles O11: LD I,nnn is `setI` of the zero-extended literal, which reads back as `nnn`. -/
theorem setAddressRegister : Obligations.SetAddressRegister :=
  fun s nnn => ⟨(s.setI (zext16 nnn)).advance, exec_ldI nnn s, zext16_addr_toNat nnn, rfl, onlyIPc_setI_advance s _⟩

end Sys2Proof.Machine
end

section
/-! PROOF. The write of the delay timer (spec/44_keys_timers.md R154). -/

namespace Sys2Proof.Machine

theorem exec_ldDtVx (x : RegIdx) (s : State) : exec (.ldDtVx x) s = .next (s.setDt (s.getV x)).advance := rfl

/-- Writing DT and moving on touches DT and PC alone, so every register and every byte is kept. -/
theorem setDt_advance_frame (s : State) (b : Byte) :
    (s.setDt b).advance = { s with dt := b, pc := s.pc + 2 } ∧
      SameRegs s (s.setDt b).advance ∧ SameBytes s (s.setDt b).advance :=
  ⟨rfl, s.setDt_getV b, s.setDt_readMem b⟩

/-- Settles O24: LD DT,Vx is `setDt` of V[x] and `advance`, whatever DT held before. -/
theorem setDelayTimer : Obligations.SetDelayTimer :=
  fun s x => ⟨(s.setDt (s.getV x)).advance, exec_ldDtVx x s, State.setDt_dt s (s.getV x), rfl, setDt_advance_frame s (s.getV x)⟩

end Sys2Proof.Machine
end

section
/-! PROOF. The two directions of the opcode map (spec/30_encoding.md R70 to R79). What an instruction's word decodes to is said
once, in `decode_encode`; the numeric patterns are then the encoder's words written as sums. The other direction goes family by
family (R72), and in the families with a selector through what the selector may be. -/

namespace Sys2Proof

/-! ## From an instruction to its word and back -/

/-- The encoder writes the family and the fields that the decoder reads: the family picks the row, and in the families 8, E and F
the selector does. -/
theorem decode_encode (i : Instr) : decode (encode i) = .instr i := by
  cases i with
  | cls => rfl
  | ret => rfl
  | jp nnn => exact (decode_fam1 (fieldFam_packNnn ..)).trans (by simp)
  | call nnn => exact (decode_fam2 (fieldFam_packNnn ..)).trans (by simp)
  | ldI nnn => exact (decode_famA (fieldFam_packNnn ..)).trans (by simp)
  | jpV0 nnn => exact (decode_famB (fieldFam_packNnn ..)).trans (by simp)
  | seImm x kk => exact (decode_fam3 (fieldFam_packXkk ..)).trans (by simp)
  | sneImm x kk => exact (decode_fam4 (fieldFam_packXkk ..)).trans (by simp)
  | ldImm x kk => exact (decode_fam6 (fieldFam_packXkk ..)).trans (by simp)
  | addImm x kk => exact (decode_fam7 (fieldFam_packXkk ..)).trans (by simp)
  | rnd x kk => exact (decode_famC (fieldFam_packXkk ..)).trans (by simp)
  | seReg x y lo => exact (decode_fam5 (fieldFam_packXyn ..)).trans (by simp)
  | sneReg x y lo => exact (decode_fam9 (fieldFam_packXyn ..)).trans (by simp)
  | drw x y n => exact (decode_famD (fieldFam_packXyn ..)).trans (by simp)
  | ldReg x y | orReg x y | andReg x y | xorReg x y | addReg x y | subReg x y | shr x y | subnReg x y | shl x y =>
    exact (decode_fam8 (fieldFam_packXyn ..)).trans (by simp [decodeFam8])
  | skp x | sknp x => exact (decode_famE (fieldFam_packXkk ..)).trans (by simp [decodeFamE])
  | ldVxDt x | ldVxK x | ldDtVx x | ldStVx x | addI x | ldF x | ldB x | ldMemVx x | ldVxMem x =>
    exact (decode_famF (fieldFam_packXkk ..)).trans (by simp [decodeFamF])

/-- Settles O47: on words it is `decode_encode`, and two bytes are read back as the word they were cut from (R52). -/
theorem decodeEncodeRoundTrip : Obligations.DecodeEncodeRoundTrip := by
  intro i
  refine ⟨decode_encode i, fun rest => ?_⟩
  rw [decodeBytes, opcodeOfBytes_highByte_lowByte, decode_encode]

/-! ## The words of the opcode map, each a sum of its pattern and its fields -/

theorem decode_ofNat_of_encode_toNat {i : Instr} {k : Nat} (h : (encode i).toNat = k) :
    decode (BitVec.ofNat 16 k) = .instr i := by
  rw [← h, BitVec.ofNat_toNat, BitVec.setWidth_eq, decode_encode]

section Patterns

variable {i : Instr} {p : Nat} {f : BitVec 4} {x y : RegIdx} {n : BitVec 4} {kk : Byte} {nnn : Addr}

/-- The format NNN (R71). -/
theorem decode_nnn (h : encode i = packNnn f nnn) (hp : p = f.toNat * 4096) :
    decode (BitVec.ofNat 16 (p + nnn.toNat)) = .instr i := by
  apply decode_ofNat_of_encode_toNat
  rw [h, packNnn_toNat, hp]

/-- The format XKK (R71). -/
theorem decode_xkk (h : encode i = packXkk f x kk) (hp : p = f.toNat * 4096) :
    decode (BitVec.ofNat 16 (p + x.toNat * 256 + kk.toNat)) = .instr i := by
  apply decode_ofNat_of_encode_toNat
  rw [h, packXkk_toNat, hp]

/-- The format XSEL (R71): the selector `kk` is part of the pattern. -/
theorem decode_xsel (h : encode i = packXkk f x kk) (hp : p = f.toNat * 4096 + kk.toNat) :
    decode (BitVec.ofNat 16 (p + x.toNat * 256)) = .instr i := by
  apply decode_ofNat_of_encode_toNat
  rw [h, packXkk_toNat, hp, Nat.add_right_comm]

/-- The format XYN (R71). -/
theorem decode_xyn (h : encode i = packXyn f x y n) (hp : p = f.toNat * 4096) :
    decode (BitVec.ofNat 16 (p + x.toNat * 256 + y.toNat * 16 + n.toNat)) = .instr i := by
  apply decode_ofNat_of_encode_toNat
  rw [h, packXyn_toNat, hp]

/-- The format XY (R71): the selector `n` is part of the pattern. -/
theorem decode_xy (h : encode i = packXyn f x y n) (hp : p = f.toNat * 4096 + n.toNat) :
    decode (BitVec.ofNat 16 (p + x.toNat * 256 + y.toNat * 16)) = .instr i := by
  apply decode_ofNat_of_encode_toNat
  rw [h, packXyn_toNat, hp]
  omega

end Patterns

/-- Settles O46: each word is the encoder's, in the format of its row and with the row's family and selector as its pattern. -/
theorem everyPatternDecodes : Obligations.EveryPatternDecodes :=
  ⟨decode_encode .cls, decode_encode .ret,
    fun _ => ⟨decode_nnn rfl rfl, decode_nnn rfl rfl, decode_nnn rfl rfl, decode_nnn rfl rfl⟩,
    fun _ _ => ⟨decode_xkk rfl rfl, decode_xkk rfl rfl, decode_xkk rfl rfl, decode_xkk rfl rfl, decode_xkk rfl rfl⟩,
    fun _ _ _ => ⟨decode_xyn rfl rfl, decode_xyn rfl rfl, decode_xyn rfl rfl⟩,
    fun _ _ => ⟨decode_xy rfl rfl, decode_xy rfl rfl, decode_xy rfl rfl, decode_xy rfl rfl, decode_xy rfl rfl,
      decode_xy rfl rfl, decode_xy rfl rfl, decode_xy rfl rfl, decode_xy rfl rfl⟩,
    fun _ => ⟨decode_xsel rfl rfl, decode_xsel rfl rfl, decode_xsel rfl rfl, decode_xsel rfl rfl, decode_xsel rfl rfl,
      decode_xsel rfl rfl, decode_xsel rfl rfl, decode_xsel rfl rfl, decode_xsel rfl rfl, decode_xsel rfl rfl,
      decode_xsel rfl rfl⟩⟩

/-- Settles O45: ten words, each the encoder's word of its instruction, or, in family 0, neither of the two patterns. -/
theorem sampleWordsDecode : Obligations.SampleWordsDecode :=
  ⟨decode_encode .cls, decode_encode (.call 0xFFF), decode_encode (.seImm 10 0x7B), decode_encode (.seReg 10 11 15),
    decode_encode (.subnReg 10 11), decode_encode (.jpV0 0x123), decode_encode (.drw 1 2 15), decode_encode (.sknp 1),
    decode_encode (.ldMemVx 1), rfl⟩

/-! ## From a word to what it decodes to -/

/-- `d` is an instruction whose word is `op`, or UNKNOWN with `op` reported. -/
def CarriesWord (op : Word) : Decoded → Prop
  | .instr i => encode i = op
  | .unknown w => w = op

theorem decodeFam0_carries {op : Word} (h : fieldFam op = 0x0#4) : CarriesWord op (decodeFam0 op) := by
  unfold decodeFam0
  split
  · next hs => exact (congrArg (packNnn 0x0#4) hs).symm.trans (packNnn_fields h)
  · next hs => exact (congrArg (packNnn 0x0#4) hs).symm.trans (packNnn_fields h)
  · rfl

theorem decodeFam8_carries {op : Word} (h : fieldFam op = 0x8#4) : CarriesWord op (decodeFam8 op) := by
  have hw := packXyn_fields h
  unfold decodeFam8
  split
  case h_10 => rfl
  all_goals next hs => rw [hs] at hw; exact hw

theorem decodeFamE_carries {op : Word} (h : fieldFam op = 0xE#4) : CarriesWord op (decodeFamE op) := by
  have hw := packXkk_fields h
  unfold decodeFamE
  split
  case h_3 => rfl
  all_goals next hs => rw [hs] at hw; exact hw

theorem decodeFamF_carries {op : Word} (h : fieldFam op = 0xF#4) : CarriesWord op (decodeFamF op) := by
  have hw := packXkk_fields h
  unfold decodeFamF
  split
  case h_10 => rfl
  all_goals next hs => rw [hs] at hw; exact hw

/-- Whatever family a word is in, what it decodes to holds all of its bits. -/
theorem decode_carries (op : Word) : CarriesWord op (decode op) := by
  rcases fam_cases (fieldFam op) with h | h | h | h | h | h | h | h | h | h | h | h | h | h | h | h
  · exact decode_fam0 h ▸ decodeFam0_carries h
  · exact decode_fam1 h ▸ packNnn_fields h
  · exact decode_fam2 h ▸ packNnn_fields h
  · exact decode_fam3 h ▸ packXkk_fields h
  · exact decode_fam4 h ▸ packXkk_fields h
  · exact decode_fam5 h ▸ packXyn_fields h
  · exact decode_fam6 h ▸ packXkk_fields h
  · exact decode_fam7 h ▸ packXkk_fields h
  · exact decode_fam8 h ▸ decodeFam8_carries h
  · exact decode_fam9 h ▸ packXyn_fields h
  · exact decode_famA h ▸ packNnn_fields h
  · exact decode_famB h ▸ packNnn_fields h
  · exact decode_famC h ▸ packXkk_fields h
  · exact decode_famD h ▸ packXyn_fields h
  · exact decode_famE h ▸ decodeFamE_carries h
  · exact decode_famF h ▸ decodeFamF_carries h

/-- Settles O48: both clauses are `decode_carries`, read at the instruction and at UNKNOWN. -/
theorem encodeDecodeRoundTrip : Obligations.EncodeDecodeRoundTrip := by
  intro op
  have hop := decode_carries op
  refine ⟨fun i h => ?_, fun w h => ?_⟩
  · rw [h] at hop
    exact hop
  · rw [h] at hop
    exact hop

/-! ## The UNKNOWN words (R78) -/

/-- (a): family 0 has two selectors. -/
theorem decodeFam0_unknown_iff (op : Word) :
    decodeFam0 op = .unknown op ↔ (fieldNnn op).toNat ≠ 0x0E0 ∧ (fieldNnn op).toNat ≠ 0x0EE := by
  unfold decodeFam0
  split
  case h_3 => exact iff_of_true rfl (by simp_all [← BitVec.toNat_inj])
  all_goals next h => simp [h]

/-- (b): family 8 has nine of the sixteen selectors. -/
theorem decodeFam8_unknown_iff (op : Word) :
    decodeFam8 op = .unknown op ↔ (fieldN op).toNat ∈ [0x8, 0x9, 0xA, 0xB, 0xC, 0xD, 0xF] := by
  rcases fam_cases (fieldN op) with h | h | h | h | h | h | h | h | h | h | h | h | h | h | h | h <;>
    simp [decodeFam8, h]

/-- (c): family E has two selectors. -/
theorem decodeFamE_unknown_iff (op : Word) : decodeFamE op = .unknown op ↔ (fieldKk op).toNat ∉ [0x9E, 0xA1] := by
  unfold decodeFamE
  split
  case h_3 => exact iff_of_true rfl (by simp_all [← BitVec.toNat_inj])
  all_goals next h => simp [h]

/-- (d): family F has nine selectors. -/
theorem decodeFamF_unknown_iff (op : Word) :
    decodeFamF op = .unknown op ↔ (fieldKk op).toNat ∉ [0x07, 0x0A, 0x15, 0x18, 0x1E, 0x29, 0x33, 0x55, 0x65] := by
  unfold decodeFamF
  split
  case h_10 => exact iff_of_true rfl (by simp_all [← BitVec.toNat_inj])
  all_goals next h => simp [h]

/-- Settles O49: the twelve families without a selector have no UNKNOWN word, and in the other four the selector decides. -/
theorem unknownWordsAreExactlyTheListed : Obligations.UnknownWordsAreExactlyTheListed := by
  intro op
  have hsel (h : fieldFam op = 0x0#4) : (fieldNnn op).toNat = op.toNat := by
    have hfam : op.toNat / 4096 = 0 := (fieldFam_toNat op).symm.trans (congrArg BitVec.toNat h)
    rw [fieldNnn_toNat]
    omega
  rw [← fieldFam_toNat, ← fieldN_toNat, ← fieldKk_toNat]
  rcases fam_cases (fieldFam op) with h | h | h | h | h | h | h | h | h | h | h | h | h | h | h | h
  · simp [h, decode_fam0 h, decodeFam0_unknown_iff, hsel h]
  · simp [h, decode_fam1 h]
  · simp [h, decode_fam2 h]
  · simp [h, decode_fam3 h]
  · simp [h, decode_fam4 h]
  · simp [h, decode_fam5 h]
  · simp [h, decode_fam6 h]
  · simp [h, decode_fam7 h]
  · simp [h, decode_fam8 h, decodeFam8_unknown_iff]
  · simp [h, decode_fam9 h]
  · simp [h, decode_famA h]
  · simp [h, decode_famB h]
  · simp [h, decode_famC h]
  · simp [h, decode_famD h]
  · simp [h, decode_famE h, decodeFamE_unknown_iff]
  · simp [h, decode_famF h, decodeFamF_unknown_iff]

end Sys2Proof
end

section
/-! PROOF. The bitwise instructions and RND (spec/41_alu.md R115 to R117, R123): a `setV` and `advance`, RND's on the state that
has drawn its byte. -/

namespace Sys2Proof.Machine

theorem exec_orReg (x y : RegIdx) (s : State) :
    exec (.orReg x y) s = .next (s.setV x (s.getV x ||| s.getV y)).advance := rfl

theorem exec_andReg (x y : RegIdx) (s : State) :
    exec (.andReg x y) s = .next (s.setV x (s.getV x &&& s.getV y)).advance := rfl

theorem exec_xorReg (x y : RegIdx) (s : State) :
    exec (.xorReg x y) s = .next (s.setV x (s.getV x ^^^ s.getV y)).advance := rfl

theorem exec_rnd (x : RegIdx) (kk : Byte) (s : State) :
    exec (.rnd x kk) s = .next (s.draw.2.setV x (s.draw.1 &&& kk)).advance := rfl

/-- OR, AND and XOR differ only in the function `f` of two bits that each bit of the result is. -/
theorem exec_bitwise_effect {i : Instr} {s : State} {x y : RegIdx} {b : Byte} {f : Bool → Bool → Bool}
    (he : exec i s = .next (s.setV x b).advance)
    (hb : ∀ k, b.getLsbD k = f ((s.getV x).getLsbD k) ((s.getV y).getLsbD k)) :
    ∃ t, exec i s = .next t ∧ (∀ k, (t.getV x).getLsbD k = f ((s.getV x).getLsbD k) ((s.getV y).getLsbD k)) ∧
      (∀ r, r ≠ x → t.getV r = s.getV r) ∧ t.pc = s.pc + 2 ∧ OnlyRegsPc s t := by
  obtain ⟨t, ht, hread, hframe⟩ := exec_setV_effect he
  have hx : t.getV x = b := (hread x).trans (if_pos rfl)
  exact ⟨t, ht, fun k => hx ▸ hb k, fun r hr => (hread r).trans (if_neg hr), hframe⟩

/-- Settles O4: bit k of the result is the operation on the bits k. -/
theorem logicOpsWriteVxOnly : Obligations.LogicOpsWriteVxOnly :=
  fun s x y => ⟨exec_bitwise_effect (exec_orReg x y s) fun _ => BitVec.getLsbD_or,
    exec_bitwise_effect (exec_andReg x y s) fun _ => BitVec.getLsbD_and,
    exec_bitwise_effect (exec_xorReg x y s) fun _ => BitVec.getLsbD_xor⟩

/-- Settles O10: the drawn byte plays no part in what the mask clears. -/
theorem randomIsMaskedDraw : Obligations.RandomIsMaskedDraw := by
  intro s x kk
  have hread : ∀ r, (s.draw.2.setV x (s.draw.1 &&& kk)).getV r = if r = x then s.draw.1 &&& kk else s.getV r :=
    fun r => s.draw.2.getV_setV x r _
  refine ⟨_, exec_rnd x kk s, hread, fun k hk => ?_, rfl, rfl, rfl, fun _ => rfl⟩
  rw [State.advance_getV, hread, if_pos rfl, BitVec.getLsbD_and, hk, Bool.and_false]

end Sys2Proof.Machine
end

section
/-! PROOF. Arithmetic on I, the register dump and the register load (spec/42_index_memory.md R132, R133, R135, R136). -/

namespace Sys2Proof.Machine

theorem exec_addI (x : RegIdx) (s : State) :
    exec (.addI x) s = .next (s.setI (s.i + zext16 (s.getV x))).advance := rfl

theorem exec_ldF (x : RegIdx) (s : State) : exec (.ldF x) s = .next (s.setI (glyphAddress (s.getV x))).advance := rfl

theorem exec_ldMemVx (x : RegIdx) (s : State) :
    exec (.ldMemVx x) s = .next (s.dumpRegs (x.toNat + 1)).advance := rfl

theorem exec_ldVxMem (x : RegIdx) (s : State) :
    exec (.ldVxMem x) s = .next (s.loadRegs (x.toNat + 1)).advance := rfl

/-- A dump and the step on write MEM and PC alone (R135). -/
theorem State.dumpRegs_advance_frame (s : State) (n : Nat) :
    (s.dumpRegs n).advance = { s with mem := (s.dumpRegs n).mem, pc := s.pc + 2 } := by
  rw [State.dumpRegs_frame]
  rfl

/-- A load and the step on write V and PC alone (R136). -/
theorem State.loadRegs_advance_frame (s : State) (n : Nat) :
    (s.loadRegs n).advance = { s with v := (s.loadRegs n).v, pc := s.pc + 2 } := by
  rw [State.loadRegs_frame]
  rfl

/-- LD [I],Vx stores V[r] at EA(r), for every r up to x (R135). -/
theorem readMem_of_exec_ldMemVx {s t : State} {x r : RegIdx} (h : exec (.ldMemVx x) s = .next t)
    (hr : r.toNat ≤ x.toNat) : t.readMem (s.ea r.toNat) = s.getV r := by
  obtain rfl : (s.dumpRegs (x.toNat + 1)).advance = t := Host.Outcome.next.inj h
  have hread := s.readMem_dumpRegs (x.toNat + 1) x.isLt r.toNat (Nat.lt_succ_of_le hr)
  rwa [BitVec.ofNat_toNat, BitVec.setWidth_eq] at hread

/-- LD Vx,[I] reads EA(r) into V[r], for every r up to x (R136). -/
theorem getV_of_exec_ldVxMem {s t : State} {x : RegIdx} (h : exec (.ldVxMem x) s = .next t) (r : RegIdx) :
    t.getV r = if r.toNat ≤ x.toNat then s.readMem (s.ea r.toNat) else s.getV r := by
  obtain rfl : (s.loadRegs (x.toNat + 1)).advance = t := Host.Outcome.next.inj h
  exact (s.getV_loadRegs (x.toNat + 1) x.isLt r).trans (if_congr Nat.lt_succ_iff rfl rfl)

/-! ## The statements -/

/-- Settles O12: the 16-bit sum of I and the zero-extended register. -/
theorem addToAddressRegister : Obligations.AddToAddressRegister := by
  intro s x
  refine ⟨_, exec_addI x s, ?_, rfl, onlyIPc_setI_advance s _⟩
  rw [State.advance_i, State.setI_i, BitVec.toNat_add, zext16_byte_toNat]

/-- Settles O13: the product is at most 1275, so 16 bits hold it. -/
theorem fontCharacterAddress : Obligations.FontCharacterAddress :=
  fun s x => ⟨_, exec_ldF x s, glyphAddress_toNat (s.getV x), rfl, onlyIPc_setI_advance s _⟩

/-- Settles O15: LD [I],Vx is a dump of the first x + 1 registers. -/
theorem registerDumpWritesV0ToVx : Obligations.RegisterDumpWritesV0ToVx := by
  intro s x
  have hframe := s.dumpRegs_advance_frame (x.toNat + 1)
  have hpc : (s.dumpRegs (x.toNat + 1)).advance.pc = s.pc + 2 := by rw [hframe]
  refine ⟨_, exec_ldMemVx x s, fun r => readMem_of_exec_ldMemVx (exec_ldMemVx x s), fun a ha => ?_, hpc, ?_, fun r => ?_⟩
  · exact s.readMem_dumpRegs_other (x.toNat + 1) a fun k hk => ha k (Nat.le_of_lt_succ hk)
  · rw [hpc]
    exact hframe
  · rw [hframe]
    rfl

/-- Settles O16: LD Vx,[I] is a load of the first x + 1 registers. -/
theorem registerLoadReadsV0ToVx : Obligations.RegisterLoadReadsV0ToVx := by
  intro s x
  have hframe := s.loadRegs_advance_frame (x.toNat + 1)
  have hpc : (s.loadRegs (x.toNat + 1)).advance.pc = s.pc + 2 := by rw [hframe]
  refine ⟨_, exec_ldVxMem x s, getV_of_exec_ldVxMem (exec_ldVxMem x s), hpc, ?_, fun a => ?_⟩
  · rw [hpc]
    exact hframe
  · rw [hframe]
    rfl

/-- Settles O17: the load reads at EA(r) the byte that the dump stored there, V[r]. -/
theorem dumpThenLoadRestoresRegisters : Obligations.DumpThenLoadRestoresRegisters := by
  intro s t u w x hdump hkept hload r hr
  obtain ⟨hea, hbyte⟩ := hkept r.toNat hr
  calc w.getV r = u.readMem (u.ea r.toNat) := (getV_of_exec_ldVxMem hload r).trans (if_pos hr)
    _ = t.readMem (s.ea r.toNat) := by rw [hea, hbyte]
    _ = s.getV r := readMem_of_exec_ldMemVx hdump hr

end Sys2Proof.Machine
end

section
/-! PROOF. CLS and DRW (spec/43_display.md R141 to R143). What DRW does to the frame is `State.drawRows_inverts`; here it is read
off the state that DRW leaves. -/

namespace Sys2Proof.Machine

theorem exec_cls (s : State) : exec .cls s = .next (s.setFrame blankFrame).advance := rfl

theorem exec_drw (x y : RegIdx) (n : BitVec 4) (s : State) : exec (.drw x y n) s =
    .next ((s.setFrame (s.drawRows (s.getV x) (s.getV y) n.toNat).fb).setV vf
      (flagByte (s.drawRows (s.getV x) (s.getV y) n.toNat).collide)).advance := rfl

/-- Settles O18: CLS installs the blank frame. -/
theorem clearDisplayBlanksEveryPixel : Obligations.ClearDisplayBlanksEveryPixel :=
  fun s => ⟨_, exec_cls s, pixel_blankFrame, rfl, rfl, rfl, fun _ => rfl, fun _ => rfl⟩

theorem flagByte_eq_one_iff (c : Bool) : flagByte c = 1 ↔ c = true := by
  cases c with
  | false => decide
  | true => decide

section Draw

variable {s t : State} {x y : RegIdx} {n : BitVec 4} (h : exec (.drw x y n) s = .next t)
include h

/-- DRW inverts the pixels of its sprite and no other (R143). -/
theorem pixel_of_exec_drw (py : Fin Config.height) (px : Fin Config.width) :
    (InSprite s (s.getV x) (s.getV y) n.toNat py px → pixel t.fb py px = !pixel s.fb py px) ∧
    (¬ InSprite s (s.getV x) (s.getV y) n.toNat py px → pixel t.fb py px = pixel s.fb py px) := by
  cases h
  exact (s.drawRows_inverts (s.getV x) (s.getV y) n.toNat (Nat.le_of_lt_succ n.isLt)).1 py px

/-- VF is 1 or 0, and 1 exactly when a pixel of the sprite was set (R142). -/
theorem vf_of_exec_drw : ∃ c : Bool, t.getV 15#4 = flagByte c ∧
    (c = true ↔ ∃ py px, InSprite s (s.getV x) (s.getV y) n.toNat py px ∧ pixel s.fb py px = true) := by
  cases h
  have hcollide := (s.drawRows_inverts (s.getV x) (s.getV y) n.toNat (Nat.le_of_lt_succ n.isLt)).2
  exact ⟨_, (State.getV_setV _ vf vf _).trans (if_pos rfl), by simpa using hcollide⟩

theorem getV_of_exec_drw {r : RegIdx} (hr : r ≠ 15#4) : t.getV r = s.getV r := by
  cases h
  exact (State.getV_setV _ vf r _).trans (if_neg hr)

/-- DRW moves neither I nor a byte, so a sprite is the same set of pixels afterwards. -/
theorem inSprite_of_exec_drw (x0 y0 : Byte) (k : Nat) : InSprite t x0 y0 k = InSprite s x0 y0 k := by
  cases h
  rfl

end Draw

/-- Settles O19: `pixel_of_exec_drw` and `vf_of_exec_drw`, and the frame of the updates that DRW is made of. -/
theorem drawSpriteInvertsItsPixels : Obligations.DrawSpriteInvertsItsPixels := by
  intro s x y n
  have he := exec_drw x y n s
  obtain ⟨c, hvf, hc⟩ := vf_of_exec_drw he
  refine ⟨_, he, pixel_of_exec_drw he, fun hset => ?_, fun hclear => ?_, fun r => getV_of_exec_drw he, rfl, rfl, rfl,
    fun _ => rfl⟩
  · rw [hvf, hc.mpr hset]
    rfl
  · rw [hvf, Bool.eq_false_iff.mpr (mt hc.mp hclear)]
    rfl

/-- Settles O20: the second draw has the same sprite, so each of its pixels is inverted twice, and it collides where the first
draw left a pixel set, that is where it was 0. -/
theorem drawTwiceRestoresFrame : Obligations.DrawTwiceRestoresFrame := by
  intro s t u x y n hx hy h1 h2
  have hsame : InSprite t (t.getV x) (t.getV y) n.toNat = InSprite s (s.getV x) (s.getV y) n.toNat := by
    rw [inSprite_of_exec_drw h1, getV_of_exec_drw h1 hx, getV_of_exec_drw h1 hy]
  obtain ⟨c, hvf, hc⟩ := vf_of_exec_drw h2
  constructor
  · refine frame_ext fun py px => ?_
    obtain ⟨hin1, hout1⟩ := pixel_of_exec_drw h1 py px
    obtain ⟨hin2, hout2⟩ := pixel_of_exec_drw h2 py px
    rw [hsame] at hin2 hout2
    by_cases hM : InSprite s (s.getV x) (s.getV y) n.toNat py px
    · rw [hin2 hM, hin1 hM, Bool.not_not]
    · rw [hout2 hM, hout1 hM]
  · rw [hvf, flagByte_eq_one_iff, hc, hsame]
    refine exists_congr fun py => exists_congr fun px => and_congr_right fun hM => ?_
    rw [(pixel_of_exec_drw h1 py px).1 hM, Bool.not_eq_true']

end Sys2Proof.Machine
end

section
/-! PROOF. Keys and timers (spec/44_keys_timers.md R150 to R153, R155). -/

namespace Sys2Proof.Machine

theorem exec_skp (x : RegIdx) (s : State) : exec (.skp x) s = .next (s.skipIf (s.keyDown (s.getV x))) := rfl

theorem exec_sknp (x : RegIdx) (s : State) : exec (.sknp x) s = .next (s.skipIf (!s.keyDown (s.getV x))) := rfl

theorem exec_ldVxDt (x : RegIdx) (s : State) : exec (.ldVxDt x) s = .next (s.setV x s.dt).advance := rfl

theorem exec_ldVxK (x : RegIdx) (s : State) : exec (.ldVxK x) s = .next (s.setPending (some x)).advance := rfl

theorem exec_ldStVx (x : RegIdx) (s : State) : exec (.ldStVx x) s = .next (s.setSt (s.getV x)).advance := rfl

/-- Settles O21: `keyDown` is the bit of KEYS that the low nibble numbers, and SKNP skips on its negation. -/
theorem keySkipsTestLowNibble : Obligations.KeySkipsTestLowNibble :=
  fun s x => ⟨exec_skip_onlyPc (exec_skp x s) Iff.rfl,
    exec_skip_onlyPc (exec_sknp x s) (Iff.of_eq (Bool.not_eq_true' (s.keyDown (s.getV x))))⟩

/-- Settles O22: LD Vx,DT is `setV` of DT. -/
theorem readDelayTimer : Obligations.ReadDelayTimer :=
  fun s x => exec_setV_effect (exec_ldVxDt x s)

/-- Settles O23: the PENDING that it sets stalls the machine. -/
theorem awaitKeySetsPending : Obligations.AwaitKeySetsPending := by
  intro s x
  refine ⟨_, exec_ldVxK x s, rfl, rfl, rfl, fun _ => rfl, fun _ => rfl, cycleStep_stalled ?_⟩
  exact State.stalled_eq_true.mpr (.inr (Option.some_ne_none x))

/-- Settles O25: LD ST,Vx is `setSt` of V[x], which leaves the output latch to the audio update. -/
theorem setSoundTimerLeavesAudio : Obligations.SetSoundTimerLeavesAudio :=
  fun s x => ⟨_, exec_ldStVx x s, rfl, rfl, rfl, rfl, fun _ => rfl, fun _ => rfl⟩

end Sys2Proof.Machine
end

section
/-! PROOF. JP V0, CALL and RET (spec/40_flow.md R92, R93, R95), from what `execCall_cases` and `execRet_cases` say. -/

namespace Sys2Proof.Machine

theorem exec_jpV0 (nnn : Addr) (s : State) :
    exec (.jpV0 nnn) s = .next (s.setPc (zext16 nnn + zext16 (s.getV 0#4))) := rfl

theorem exec_call (nnn : Addr) (s : State) : exec (.call nnn) s = execCall nnn s := rfl

theorem exec_ret (s : State) : exec .ret s = execRet s := rfl

/-- The sum of a 12-bit address and a byte is at most 0x10FE, so it does not wrap (R95). -/
theorem zext16_addr_add_byte_toNat (a : Addr) (b : Byte) : (zext16 a + zext16 b).toNat = a.toNat + b.toNat := by
  have ha := a.isLt
  have hb := b.isLt
  rw [BitVec.toNat_add, zext16_addr_toNat, zext16_byte_toNat]
  omega

/-- Settles O28: JP V0 is `setPc` of that sum. -/
theorem jumpWithOffsetAddsV0 : Obligations.JumpWithOffsetAddsV0 :=
  fun s nnn => ⟨_, exec_jpV0 nnn s, zext16_addr_add_byte_toNat nnn (s.getV 0#4), onlyPc_setPc s _⟩

/-! ## CALL and RET within the stack's bounds -/

/-- CALL with room on the stack (R93). -/
theorem exec_call_of_lt (nnn : Addr) {s : State} (h : s.sp.val < 16) :
    ∃ t : State, exec (.call nnn) s = .next (t.setPc (zext16 nnn)) ∧ t.sp.val = s.sp.val + 1 ∧
      (∀ j (hj : j < 16), t.stack[j] = if j = s.sp.val then s.pc else s.stack[j]) ∧
      t = { s with stack := t.stack, sp := t.sp } := by
  rw [exec_call]
  rcases execCall_cases nnn s with ⟨hfull, -⟩ | ⟨t, ht, -, hpush⟩
  · exact absurd hfull h.ne
  · exact ⟨t, ht, hpush⟩

/-- RET with an entry on the stack (R92). -/
theorem exec_ret_of_succ {s : State} {j : Nat} (hj : j < 16) (h : s.sp.val = j + 1) :
    ∃ t : State, exec .ret s = .next (t.setPc (s.stack[j] + 2#16)) ∧ t.sp.val = j ∧ t = { s with sp := t.sp } := by
  rw [exec_ret]
  rcases execRet_cases s with ⟨hempty, -⟩ | ⟨k, hk, t, hsp, ht⟩
  · omega
  · obtain rfl : k = j := by omega
    exact ⟨t, ht⟩

/-- Settles O29: the pushed entry is PC of the CALL itself. -/
theorem callPushesOwnAddress : Obligations.CallPushesOwnAddress := by
  intro s nnn h
  obtain ⟨t, he, hsp, hstack, ht⟩ := exec_call_of_lt nnn h
  refine ⟨_, he, hsp, fun j => hstack j j.isLt, zext16_addr_toNat nnn, ?_, fun r => ?_, fun a => ?_⟩
  all_goals
    rw [ht]
    rfl

/-- Settles O30: only SP moves on the stack; the popped entry keeps its content. -/
theorem returnPopsAndAddsTwo : Obligations.ReturnPopsAndAddsTwo := by
  intro s j h
  obtain ⟨t, he, hsp, ht⟩ := exec_ret_of_succ j.isLt h
  refine ⟨_, he, hsp, rfl, ?_, fun r => ?_, fun a => ?_⟩
  all_goals
    rw [ht]
    rfl

/-- Settles O31: at SP = 16 there is no room to push and at SP = 0 nothing to pop, and fault entry writes FAULT alone. -/
theorem stackMisuseSetsOnlyFault : Obligations.StackMisuseSetsOnlyFault := by
  refine ⟨fun s nnn h => ?_, fun s h => ?_⟩
  · rcases execCall_cases nnn s with ⟨-, he⟩ | ⟨-, -, hlt, -⟩
    · exact he
    · exact absurd h hlt.ne
  · rcases execRet_cases s with ⟨-, he⟩ | ⟨j, -, -, hsp, -⟩
    · exact he
    · omega

/-- Settles O32: the entry that RET pops is the one that CALL pushed, at CALL's own depth. -/
theorem returnGoesAfterItsCall : Obligations.ReturnGoesAfterItsCall := by
  intro s t u w nnn h hcall hstack hsp hret
  obtain ⟨t', het, hspt, hpush, -⟩ := exec_call_of_lt nnn h
  obtain rfl : t'.setPc (zext16 nnn) = t := Host.Outcome.next.inj (het.symm.trans hcall)
  have hdepth : u.sp.val = s.sp.val + 1 := (congrArg Fin.val hsp).trans hspt
  obtain ⟨u', heu, hspu, -⟩ := exec_ret_of_succ h hdepth
  obtain rfl : u'.setPc (u.stack[s.sp.val] + 2#16) = w := Host.Outcome.next.inj (heu.symm.trans hret)
  have hentry : u.stack[s.sp.val] = s.pc := by
    rw [hstack]
    exact (hpush s.sp.val h).trans (if_pos rfl)
  exact ⟨congrArg (· + 2#16) hentry, Fin.ext hspu⟩

end Sys2Proof.Machine
end

section
/-! PROOF. What holds of every instruction: it answers a next state (spec/60_exceptions.md section 6), it writes what the access
tables list for it (10_state.md), and it leaves PC as the PC law says (40_flow.md R91). -/

namespace Sys2Proof.Machine

theorem exec_ldMemVx_frame (x : RegIdx) (s : State) :
    exec (.ldMemVx x) s = .next { s with mem := (s.dumpRegs (x.toNat + 1)).mem, pc := s.pc + 2 } := by
  rw [exec_ldMemVx, State.dumpRegs_advance_frame]

theorem exec_ldVxMem_frame (x : RegIdx) (s : State) :
    exec (.ldVxMem x) s = .next { s with v := (s.loadRegs (x.toNat + 1)).v, pc := s.pc + 2 } := by
  rw [exec_ldVxMem, State.loadRegs_advance_frame]

/-- All that CALL can leave. -/
theorem exec_call_cases {nnn : Addr} {s t : State} (h : exec (.call nnn) s = .next t) :
    (s.sp.val = 16 ∧ t = s.raise .stackOverflow) ∨
    (s.sp.val < 16 ∧ t.sp.val = s.sp.val + 1 ∧
      (∀ j (hj : j < 16), t.stack[j] = if j = s.sp.val then s.pc else s.stack[j]) ∧
      t = { s with stack := t.stack, sp := t.sp, pc := zext16 nnn }) := by
  rcases execCall_cases nnn s with ⟨hsp, he⟩ | ⟨u, he, hsp, hu, hstack, hframe⟩
  · exact .inl ⟨hsp, Host.Outcome.next.inj (h.symm.trans he)⟩
  · obtain rfl : u.setPc (zext16 nnn) = t := Host.Outcome.next.inj (he.symm.trans h)
    refine .inr ⟨hsp, hu, hstack, ?_⟩
    rw [hframe]
    rfl

/-- All that RET can leave. -/
theorem exec_ret_cases {s t : State} (h : exec .ret s = .next t) :
    (s.sp.val = 0 ∧ t = s.raise .stackUnderflow) ∨
    ∃ (j : Nat) (hj : j < 16), s.sp.val = j + 1 ∧ t.sp.val = j ∧
      t = { s with sp := t.sp, pc := s.stack[j] + 2 } := by
  rcases execRet_cases s with ⟨hsp, he⟩ | ⟨j, hj, u, hsp, he, hu, hframe⟩
  · exact .inl ⟨hsp, Host.Outcome.next.inj (h.symm.trans he)⟩
  · obtain rfl : u.setPc (s.stack[j] + 2#16) = t := Host.Outcome.next.inj (he.symm.trans h)
    refine .inr ⟨j, hj, hsp, hu, ?_⟩
    rw [hframe]
    rfl

/-- Settles O40: RET and CALL answer one of two next states, and every other instruction is one `.next` by its definition. -/
theorem everyInstructionAnswersNext : Obligations.EveryInstructionAnswersNext := by
  intro i s
  cases i with
  | ret =>
    rcases execRet_cases s with ⟨-, he⟩ | ⟨_, _, _, _, he, _⟩
    · exact ⟨_, he⟩
    · exact ⟨_, he⟩
  | call nnn =>
    rcases execCall_cases nnn s with ⟨-, he⟩ | ⟨_, he, _⟩
    · exact ⟨_, he⟩
    · exact ⟨_, he⟩
  | _ => exact ⟨_, rfl⟩

/-- Settles O41: a writer by `setV` writes V[x], one by `setResultFlag` V[x] and VF, DRW VF, and a register load V[0] to V[x]. -/
theorem onlyListedInstructionsWriteV : Obligations.OnlyListedInstructionsWriteV := by
  intro i s t r h hw
  cases i with
  | ldImm x _ | addImm x _ | ldReg x _ | orReg x _ | andReg x _ | xorReg x _ | rnd x _ | ldVxDt x =>
    cases h
    exact (State.getV_setV _ x r _).trans (if_neg (ne_of_beq_false hw))
  | addReg x _ | subReg x _ | subnReg x _ | shr x _ | shl x _ =>
    cases h
    obtain ⟨hx, hf⟩ := Bool.or_eq_false_iff.mp hw
    exact (State.getV_setResultFlag _ x r _ _).trans
      ((if_neg (ne_of_beq_false hf)).trans (if_neg (ne_of_beq_false hx)))
  | drw _ _ _ => exact getV_of_exec_drw h (ne_of_beq_false hw)
  | ldVxMem _ => exact (getV_of_exec_ldVxMem h r).trans (if_neg (of_decide_eq_false hw))
  | ldMemVx x =>
    cases (exec_ldMemVx_frame x s).symm.trans h
    rfl
  | ret =>
    rcases exec_ret_cases h with ⟨-, rfl⟩ | ⟨_, _, _, _, ht⟩
    · rfl
    · rw [ht]
      rfl
  | call _ =>
    rcases exec_call_cases h with ⟨-, rfl⟩ | ⟨_, _, _, ht⟩
    · rfl
    · rw [ht]
      rfl
  | _ =>
    cases h
    rfl

/-- Settles O42: each instruction is a chain of named updates, and each update's laws say which fields it keeps. -/
theorem onlyNamedInstructionsWriteState : Obligations.OnlyNamedInstructionsWriteState := by
  intro i s t h
  cases i with
  | ret =>
    rcases exec_ret_cases h with ⟨-, rfl⟩ | ⟨_, _, _, _, ht⟩
    · simp [SameBytes]
    · rw [ht]
      simp [SameBytes, State.readMem]
  | call _ =>
    rcases exec_call_cases h with ⟨-, rfl⟩ | ⟨_, _, _, ht⟩
    · simp [SameBytes]
    · rw [ht]
      simp [SameBytes, State.readMem]
  | ldMemVx x =>
    cases (exec_ldMemVx_frame x s).symm.trans h
    simp
  | ldVxMem x =>
    cases (exec_ldVxMem_frame x s).symm.trans h
    simp [SameBytes, State.readMem]
  | _ =>
    cases h
    simp [SameBytes, State.storeBcd]

/-! ## The PC law (R91) -/

theorem zext16_addr_eq_ofNat (a : Addr) : zext16 a = BitVec.ofNat 16 a.toNat := by
  apply BitVec.eq_of_toNat_eq
  rw [zext16_addr_toNat, BitVec.toNat_ofNat, Nat.mod_eq_of_lt (by omega)]

theorem zext16_addr_add_byte_eq_ofNat (a : Addr) (b : Byte) :
    zext16 a + zext16 b = BitVec.ofNat 16 (a.toNat + b.toNat) := by
  apply BitVec.eq_of_toNat_eq
  rw [zext16_addr_add_byte_toNat, BitVec.toNat_ofNat, Nat.mod_eq_of_lt (by omega)]

/-- A skip on equality leaves PC + 4 where the two are equal. -/
theorem pc_of_skip_eq {s t : State} {i : Instr} {a b : Byte} (he : exec i s = .next (s.skipIf (a == b)))
    (h : exec i s = .next t) : t.pc = if a = b then s.pc + 4 else s.pc + 2 := by
  obtain rfl : s.skipIf (a == b) = t := Host.Outcome.next.inj (he.symm.trans h)
  exact (s.skipIf_pc _).trans (if_congr beq_iff_eq rfl rfl)

/-- A skip on a negated condition leaves PC + 2 where the condition holds. -/
theorem pc_of_skip_not {s t : State} {i : Instr} {c : Bool} {P : Prop} [Decidable P]
    (he : exec i s = .next (s.skipIf (!c))) (hP : c = true ↔ P) (h : exec i s = .next t) :
    t.pc = if P then s.pc + 2 else s.pc + 4 := by
  obtain rfl : s.skipIf (!c) = t := Host.Outcome.next.inj (he.symm.trans h)
  rw [State.skipIf_pc, if_congr hP.symm rfl rfl]
  cases c with
  | false => rfl
  | true => rfl

/-- PC after an instruction that raises no fault. -/
theorem pc_of_exec {i : Instr} {s t : State} (h : exec i s = .next t) (hret : i = .ret → s.sp.val ≠ 0)
    (hcall : ∀ nnn, i = .call nnn → s.sp.val ≠ 16) : t.pc = pcAfter s i := by
  cases i with
  | seImm x kk => exact pc_of_skip_eq (exec_seImm x kk s) h
  | seReg x y lo => exact pc_of_skip_eq (exec_seReg x y lo s) h
  | sneImm x kk => exact pc_of_skip_not (exec_sneImm x kk s) beq_iff_eq h
  | sneReg x y lo => exact pc_of_skip_not (exec_sneReg x y lo s) beq_iff_eq h
  | sknp x => exact pc_of_skip_not (exec_sknp x s) Iff.rfl h
  | jp nnn =>
    cases h
    exact zext16_addr_eq_ofNat nnn
  | jpV0 nnn =>
    cases h
    exact zext16_addr_add_byte_eq_ofNat nnn (s.getV 0#4)
  | call nnn =>
    rcases exec_call_cases h with ⟨hsp, -⟩ | ⟨_, _, _, ht⟩
    · exact absurd hsp (hcall nnn rfl)
    · rw [ht]
      exact zext16_addr_eq_ofNat nnn
  | ret =>
    rcases exec_ret_cases h with ⟨hsp, -⟩ | ⟨j, hj, hsp, _, ht⟩
    · exact absurd hsp (hret rfl)
    · have hentry : s.stack.getD (s.sp.val - 1) 0 = s.stack[j] := by
        simp [hsp, Vector.getD, hj]
      rw [ht]
      exact congrArg (· + 2) hentry.symm
  | ldMemVx x =>
    cases (exec_ldMemVx_frame x s).symm.trans h
    rfl
  | ldVxMem x =>
    cases (exec_ldVxMem_frame x s).symm.trans h
    rfl
  | _ =>
    cases h
    rfl

/-! ## Which instructions raise a fault (R160) -/

/-- An instruction that changes FAULT is a CALL at SP = 16 or a RET at SP = 0, and does nothing else (R161, R166). -/
theorem exec_raises {i : Instr} {s t : State} (h : exec i s = .next t) (hf : t.fault ≠ s.fault) :
    (s.sp.val = 16 ∧ (∃ nnn, i = .call nnn) ∧ t = s.raise .stackOverflow) ∨
    (s.sp.val = 0 ∧ i = .ret ∧ t = s.raise .stackUnderflow) := by
  obtain ⟨-, -, -, -, -, -, -, -, hfault, -⟩ := onlyNamedInstructionsWriteState i s t h
  rcases hfault with hkept | rfl | ⟨nnn, rfl⟩
  · exact absurd hkept hf
  · rcases exec_ret_cases h with ⟨hsp, ht⟩ | ⟨_, _, _, _, ht⟩
    · exact .inr ⟨hsp, rfl, ht⟩
    · exact absurd (by rw [ht]) hf
  · rcases exec_call_cases h with ⟨hsp, ht⟩ | ⟨_, _, _, ht⟩
    · exact .inl ⟨hsp, ⟨nnn, rfl⟩, ht⟩
    · exact absurd (by rw [ht]) hf

/-- Settles O33: the law is `pc_of_exec`, and the two instructions that raise a fault leave PC where it was (`exec_raises`). -/
theorem pcLawHoldsOfEveryInstruction : Obligations.PcLawHoldsOfEveryInstruction := by
  refine ⟨fun i s t h _ => pc_of_exec h, fun i s t h hf => ?_, fun op s t h => ?_⟩
  · rcases exec_raises h hf with ⟨-, -, rfl⟩ | ⟨-, -, rfl⟩
    · rfl
    · rfl
  · cases h
    rfl

end Sys2Proof.Machine
end

section
/-! PROOF. What no instruction but six sees of an update: `Unseen g` says that `g` commutes with every named update and changes
nothing that an instruction reads; then `g` commutes with every instruction that names neither I nor a timer. Two statements rest
on it: bits 15:12 of I (spec/10_state.md R24), and the tick step and audio update (60_exceptions.md R165). -/

namespace Sys2Proof.Machine

/-- `g` changes only what instructions do not look at, but for I and the timers. -/
structure Unseen (g : State → State) : Prop where
  getV : ∀ s r, (g s).getV r = s.getV r
  readMem : ∀ s a, (g s).readMem a = s.readMem a
  pc : ∀ s, (g s).pc = s.pc
  stack : ∀ s, (g s).stack = s.stack
  sp : ∀ s, (g s).sp = s.sp
  fb : ∀ s, (g s).fb = s.fb
  keyDown : ∀ s b, (g s).keyDown b = s.keyDown b
  stalled : ∀ s, (g s).stalled = s.stalled
  fetch : ∀ s, (g s).fetch = s.fetch
  setV : ∀ s x b, (g s).setV x b = g (s.setV x b)
  writeMem : ∀ s a b, (g s).writeMem a b = g (s.writeMem a b)
  setPc : ∀ s w, (g s).setPc w = g (s.setPc w)
  setFrame : ∀ s fb, (g s).setFrame fb = g (s.setFrame fb)
  setPending : ∀ s p, (g s).setPending p = g (s.setPending p)
  setStack : ∀ s st p, { g s with stack := st, sp := p } = g { s with stack := st, sp := p }
  draw : ∀ s, (g s).draw = (s.draw.1, g s.draw.2)
  raise : ∀ s f, (g s).raise f = g (s.raise f)
  closeLoad : ∀ s, (g s).closeLoad = g s.closeLoad
  report : ∀ s op, (g s).report op = g (s.report op)

theorem unseen_setI (w : Word) : Unseen (·.setI w) := by constructor <;> intros <;> rfl

theorem unseen_tickStep : Unseen tickStep := by constructor <;> intros <;> rfl

theorem unseen_audioUpdate (v : Byte) : Unseen (audioUpdate · v) := by constructor <;> intros <;> rfl

/-- The instructions that read or write I itself, not only the addresses EA(k), or a timer. -/
def namesIOrTimer : Instr → Bool
  | .ldI _ | .addI _ | .ldF _ | .ldVxDt _ | .ldDtVx _ | .ldStVx _ => true
  | _ => false

namespace Unseen

variable {g : State → State} (hg : Unseen g)
include hg

theorem advance (s : State) : (g s).advance = g s.advance := by
  rw [State.advance, hg.pc, hg.setPc, State.advance]

theorem skipIf (s : State) (c : Bool) : (g s).skipIf c = g (s.skipIf c) := by
  rw [State.skipIf, hg.pc, hg.setPc, State.skipIf]

theorem setResultFlag (s : State) (x : RegIdx) (b : Byte) (f : Bool) :
    (g s).setResultFlag x b f = g (s.setResultFlag x b f) := by
  rw [State.setResultFlag, hg.setV, hg.setV, State.setResultFlag]

/-! ### The loops, for a `g` that keeps the effective addresses -/

section Loops

variable {s : State} (hea : ∀ k, (g s).ea k = s.ea k)
include hea

theorem storeBcd (b : Byte) : (g s).storeBcd b = g (s.storeBcd b) := by
  simp only [State.storeBcd, hea, hg.writeMem]

theorem dumpRegs (n : Nat) : (g s).dumpRegs n = g (s.dumpRegs n) := by
  induction n with
  | zero => rfl
  | succ n ih => rw [State.dumpRegs, ih, hea, hg.getV, hg.writeMem, State.dumpRegs]

theorem loadRegs (n : Nat) : (g s).loadRegs n = g (s.loadRegs n) := by
  induction n with
  | zero => rfl
  | succ n ih => rw [State.loadRegs, ih, hea, hg.readMem, hg.setV, State.loadRegs]

theorem drawRows (x0 y0 : Byte) (n : Nat) : (g s).drawRows x0 y0 n = s.drawRows x0 y0 n := by
  induction n with
  | zero => rw [State.drawRows, hg.fb, State.drawRows]
  | succ n ih => rw [State.drawRows, ih, hea, hg.readMem, State.drawRows]

end Loops

/-! ### RET and CALL -/

theorem push (s : State) (w : Word) : (g s).push w = (s.push w).map g := by
  simp only [State.push, hg.sp, hg.stack]
  split
  · exact congrArg some (hg.setStack ..)
  · rfl

theorem pop (s : State) : (g s).pop = s.pop.map fun p => (p.1, g p.2) := by
  simp only [State.pop, hg.sp, hg.stack]
  split
  · rfl
  · refine congrArg (fun t => some (_, t)) ?_
    exact hg.setStack s s.stack _

theorem execRet_comm {s t : State} (h : execRet s = .next t) : execRet (g s) = .next (g t) := by
  rw [execRet] at h ⊢
  rw [hg.pop]
  cases hp : s.pop with
  | none =>
    rw [hp] at h
    cases h
    exact congrArg _ (hg.raise ..)
  | some p =>
    rw [hp] at h
    cases h
    exact congrArg _ (hg.setPc ..)

theorem execCall_comm {nnn : Addr} {s t : State} (h : execCall nnn s = .next t) : execCall nnn (g s) = .next (g t) := by
  rw [execCall] at h ⊢
  rw [hg.pc, hg.push]
  cases hp : s.push s.pc with
  | none =>
    rw [hp] at h
    cases h
    exact congrArg _ (hg.raise ..)
  | some p =>
    rw [hp] at h
    cases h
    exact congrArg _ (hg.setPc ..)

/-- An unseen update commutes with every instruction that names neither I nor a timer. -/
theorem exec_comm {i : Instr} {s t : State} (hi : namesIOrTimer i = false) (hea : ∀ k, (g s).ea k = s.ea k)
    (h : exec i s = .next t) : exec i (g s) = .next (g t) := by
  cases i with
  | ldI _ | addI _ | ldF _ | ldVxDt _ | ldDtVx _ | ldStVx _ => cases hi
  | ret => exact hg.execRet_comm h
  | call nnn => exact hg.execCall_comm h
  | drw x y n =>
    cases h
    rw [exec_drw, hg.getV, hg.getV, hg.drawRows hea, hg.setFrame, hg.setV, hg.advance]
  | ldB x =>
    cases h
    rw [exec_ldB, hg.getV, hg.storeBcd hea, hg.advance]
  | ldMemVx x =>
    cases h
    rw [exec_ldMemVx, hg.dumpRegs hea, hg.advance]
  | ldVxMem x =>
    cases h
    rw [exec_ldVxMem, hg.loadRegs hea, hg.advance]
  | cls =>
    cases h
    rw [exec_cls, hg.setFrame, hg.advance]
  | jp nnn =>
    cases h
    rw [exec_jp, hg.setPc]
  | jpV0 nnn =>
    cases h
    rw [exec_jpV0, hg.getV, hg.setPc]
  | ldVxK x =>
    cases h
    rw [exec_ldVxK, hg.setPending, hg.advance]
  | rnd x kk =>
    cases h
    rw [exec_rnd, hg.draw, hg.setV, hg.advance]
  | skp x | sknp x | seImm x _ | sneImm x _ | seReg x _ _ | sneReg x _ _ =>
    cases h
    simp only [exec_skp, exec_sknp, exec_seImm, exec_sneImm, exec_seReg, exec_sneReg, hg.getV, hg.keyDown, hg.skipIf]
  | ldImm x _ | addImm x _ | ldReg x _ | orReg x _ | andReg x _ | xorReg x _ =>
    cases h
    simp only [exec_ldImm, exec_addImm, exec_ldReg, exec_orReg, exec_andReg, exec_xorReg, hg.getV, hg.setV, hg.advance]
  | addReg x _ | subReg x _ | subnReg x _ | shr x _ | shl x _ =>
    cases h
    simp only [exec_addReg, exec_subReg, exec_subnReg, exec_shr, exec_shl, hg.getV, hg.setResultFlag, hg.advance]

/-- An unseen update that commutes with the instruction at PC commutes with the cycle step. -/
theorem cycleStep_comm {s t : State} (h : cycleStep s = .next t)
    (hex : ∀ i, decode s.fetch = .instr i → exec i s.closeLoad = .next t → exec i (g s.closeLoad) = .next (g t)) :
    cycleStep (g s) = .next (g t) := by
  rcases cycleStep_cases s with ⟨hst, he⟩ | ⟨hst, hpc, he⟩ | ⟨hst, hpc, i, hd, he⟩ | ⟨hst, hpc, op, hd, he⟩
  · cases he.symm.trans h
    exact cycleStep_stalled ((hg.stalled s).trans hst)
  · cases he.symm.trans h
    rw [cycleStep_pcOutOfRange ((hg.stalled s).trans hst) (hg.pc s ▸ hpc), hg.raise]
  · rw [cycleStep_executes ((hg.stalled s).trans hst) (hg.pc s ▸ hpc), hg.fetch, hd, hg.closeLoad]
    exact hex i hd (he.symm.trans h)
  · cases he.symm.trans h
    rw [cycleStep_executes ((hg.stalled s).trans hst) (hg.pc s ▸ hpc), hg.fetch, hd, hg.closeLoad]
    exact congrArg _ ((congrArg State.advance (hg.report ..)).trans (hg.advance _))

end Unseen

/-! ## The statements -/

/-- Settles O43: an instruction sees I only through EA(k), which takes it modulo 4096 (R130), but for ADD I, whose sum modulo 4096
depends on I modulo 4096 alone. -/
theorem highBitsOfIAreUnobservable : Obligations.HighBitsOfIAreUnobservable := by
  intro i s t w hw h
  cases hi : namesIOrTimer i with
  | false =>
    obtain ⟨hkept, -⟩ := onlyNamedInstructionsWriteState i s t h
    have hti : t.i = s.i := by
      rcases hkept with hti | ⟨_, rfl⟩ | ⟨_, rfl⟩ | ⟨_, rfl⟩
      · exact hti
      all_goals cases hi
    exact ⟨w, hti ▸ hw, (unseen_setI w).exec_comm hi (State.ea_congr hw) h⟩
  | true =>
    cases i with
    | ldI _ | ldF _ =>
      cases h
      exact ⟨_, rfl, rfl⟩
    | addI x =>
      cases h
      refine ⟨w + zext16 (s.getV x), ?_, rfl⟩
      rw [State.advance_i, State.setI_i, BitVec.toNat_add, BitVec.toNat_add]
      omega
    | ldVxDt _ | ldDtVx _ | ldStVx _ =>
      cases h
      exact ⟨w, hw, rfl⟩
    | _ => cases hi

/-- A tick step commutes with an instruction that leaves the timers alone (R165). -/
theorem exec_tickStep {i : Instr} {s t : State} (hi : touchesTimers i = false) (h : exec i s = .next t) :
    exec i (tickStep s) = .next (tickStep t) := by
  cases hn : namesIOrTimer i with
  | false => exact unseen_tickStep.exec_comm hn (fun _ => rfl) h
  | true =>
    cases i with
    | ldVxDt _ | ldDtVx _ | ldStVx _ => cases hi
    | ldI _ | addI _ | ldF _ =>
      cases h
      rfl
    | _ => cases hn

/-- An audio update commutes with every instruction: none reads or writes what it changes (R171). -/
theorem exec_audioUpdate {i : Instr} {s t : State} (v : Byte) (h : exec i s = .next t) :
    exec i (audioUpdate s v) = .next (audioUpdate t v) := by
  cases hn : namesIOrTimer i with
  | false => exact (unseen_audioUpdate v).exec_comm hn (fun _ => rfl) h
  | true =>
    cases i with
    | ldVxDt _ | ldDtVx _ | ldStVx _ | ldI _ | addI _ | ldF _ =>
      cases h
      rfl
    | _ => cases hn

/-- Settles O44: both updates are unseen by the cycle step but for the instruction it runs. -/
theorem tickCommutesWithCycle : Obligations.TickCommutesWithCycle :=
  fun _ _ h => ⟨fun hi => unseen_tickStep.cycleStep_comm h fun i hd => exec_tickStep (hi i hd),
    fun v => (unseen_audioUpdate v).cycleStep_comm h fun _ _ => exec_audioUpdate v⟩

end Sys2Proof.Machine
end

section
/-! PROOF. The cycle step (spec/40_flow.md R90, 60_exceptions.md R160 to R163): its four cases are `cycleStep_cases`, and the
environment's schedule brings it by `step_cycleNext`. -/

namespace Sys2Proof.Machine

/-! ## The fetched word -/

/-- A PC that passes the fetch check has its two bytes at the 12-bit addresses PC and PC + 1, without a wrap (R52, R53). -/
theorem State.fetch_eq {s : State} (hpc : s.pc.toNat ≤ 0xFFE) :
    s.fetch = opcodeOfBytes (s.readMem (BitVec.ofNat 12 s.pc.toNat)) (s.readMem (BitVec.ofNat 12 (s.pc.toNat + 1))) := by
  rw [State.fetch, State.readMem, State.readMem, BitVec.toNat_ofNat, BitVec.toNat_ofNat, Nat.mod_eq_of_lt (by omega),
    Nat.mod_eq_of_lt (by omega)]

theorem decode_of_decodeBytes_ok {hi lo : Byte} {rest : List Byte} {i : Instr}
    (h : decodeBytes (hi :: lo :: rest) = .ok (i, rest)) : decode (opcodeOfBytes hi lo) = .instr i := by
  rw [decodeBytes] at h
  cases hd : decode (opcodeOfBytes hi lo) with
  | instr j =>
    rw [hd] at h
    cases h
    rfl
  | unknown op =>
    rw [hd] at h
    cases h

theorem decode_of_decodeBytes_unknown {hi lo : Byte} {rest : List Byte} {op : Word}
    (h : decodeBytes (hi :: lo :: rest) = .error (.unknownOpcode op)) : decode (opcodeOfBytes hi lo) = .unknown op := by
  rw [decodeBytes] at h
  cases hd : decode (opcodeOfBytes hi lo) with
  | instr j =>
    rw [hd] at h
    cases h
  | unknown op' =>
    rw [hd] at h
    cases h
    rfl

/-! ## A step that is a cycle step -/

/-- Not stalled and with PC in range, the step executes the fetched word, the load window closed. -/
theorem step_executes {s : State} (hc : s.cycleNext = true) (hf : s.fault = none) (hp : s.pending = none)
    (hpc : s.pc.toNat ≤ 0xFFE) : step s = execDecoded (decode s.fetch) s.entering := by
  rw [step_cycleNext hc]
  exact cycleStep_executes (State.stalled_eq_false.mpr ⟨hf, hp⟩) hpc

/-- Settles O34: the fetched word is the word of the two bytes. -/
theorem stepRunsDecodedInstruction : Obligations.StepRunsDecodedInstruction := by
  intro s i hc hf hp hpc hd
  rw [step_executes hc hf hp hpc, State.fetch_eq hpc, decode_of_decodeBytes_ok hd]
  rfl

/-- Settles O35: an UNKNOWN is executed as its report and `advance`. -/
theorem unknownOpcodeIsReportedNoOp : Obligations.UnknownOpcodeIsReportedNoOp := by
  intro s op hc hf hp hpc hd
  rw [step_executes hc hf hp hpc, State.fetch_eq hpc, decode_of_decodeBytes_unknown hd]
  rfl

/-- Settles O36: a stalled cycle step answers its own state. -/
theorem stalledCycleStepChangesNothing : Obligations.StalledCycleStepChangesNothing := by
  intro s hc hlatch
  rw [step_cycleNext hc]
  exact cycleStep_stalled (State.stalled_eq_true.mpr hlatch)

/-- Settles O37: with PC out of range the cycle step is fault entry. -/
theorem pcBeyondMemoryFaults : Obligations.PcBeyondMemoryFaults := by
  intro s hc hf hp hpc
  rw [step_cycleNext hc]
  exact cycleStep_pcOutOfRange (State.stalled_eq_false.mpr ⟨hf, hp⟩) hpc

/-- Settles O38: of the four cases of a cycle step, stalling and UNKNOWN leave FAULT alone, and an instruction that changes it is
one of the two of `exec_raises`. -/
theorem faultingStepWritesOnlyFault : Obligations.FaultingStepWritesOnlyFault := by
  intro s t hf h ht
  rcases cycleStep_cases s with ⟨-, he⟩ | ⟨-, hpc, he⟩ | ⟨-, hpc, i, hd, he⟩ | ⟨-, -, op, -, he⟩
  · cases he.symm.trans h
    exact absurd hf ht
  · cases he.symm.trans h
    exact ⟨rfl, .inl ⟨rfl, hpc⟩⟩
  · have hchanged : t.fault ≠ s.closeLoad.fault := fun e => ht (e.trans hf)
    rcases exec_raises (he.symm.trans h) hchanged with ⟨hsp, ⟨nnn, rfl⟩, rfl⟩ | ⟨hsp, rfl, rfl⟩
    · exact ⟨rfl, .inr (.inl ⟨rfl, hpc, hsp, nnn, hd⟩)⟩
    · exact ⟨rfl, .inr (.inr ⟨rfl, hpc, hsp, hd⟩)⟩
  · cases he.symm.trans h
    exact absurd hf ht

/-- Settles O39: PC is EA(k) there, so the two fetched bytes are those that the dump stored at EA(k) and EA(k + 1). -/
theorem storeIsSeenByNextFetch : Obligations.StoreIsSeenByNextFetch := by
  intro s t x k hk h hpc hlimit
  have hnext : (BitVec.ofNat 4 (k.toNat + 1)).toNat = k.toNat + 1 := by
    rw [BitVec.toNat_ofNat, Nat.mod_eq_of_lt (by omega)]
  have hhigh := readMem_of_exec_ldMemVx h (r := k) (by omega)
  have hlow := readMem_of_exec_ldMemVx h (r := BitVec.ofNat 4 (k.toNat + 1)) (by omega)
  rw [hnext] at hlow
  rw [State.fetch_eq hlimit, ← hpc, Nat.add_assoc, ← hhigh, ← hlow]
  rfl

end Sys2Proof.Machine
end

section
/-! PROOF. The steps of the other actors (spec/60_exceptions.md R169 to R177) and reset (70_reset_and_hazards.md R200): what each
can leave is said once, and a step is the environment's entry performed on the state without it. -/

namespace Sys2Proof.Machine

/-! ## What each actor can do -/

theorem tickActorStep_cases (s : State) :
    (s.audioDue = none ∧ tickActorStep s = tickStep s) ∨
    ∃ v, s.audioDue = some v ∧ tickActorStep s = audioUpdate s v := by
  cases h : s.audioDue with
  | none => exact .inl ⟨rfl, by rw [tickActorStep, h]⟩
  | some v => exact .inr ⟨v, rfl, by rw [tickActorStep, h]⟩

/-- R169: an event is dropped, or it goes to the awaiting register and ends the wait. -/
theorem keyDelivery_cases (s : State) (k : RegIdx) :
    (s.pending = none ∧ keyDelivery s k = s) ∨
    ∃ r, s.pending = some r ∧ keyDelivery s k = (s.setV r (k.setWidth 8)).setPending none := by
  cases h : s.pending with
  | none => exact .inl ⟨rfl, by rw [keyDelivery, h]⟩
  | some r => exact .inr ⟨r, rfl, by rw [keyDelivery, h]⟩

section RomLoad

variable {s : State} {image : List Byte}

theorem romLoad_of_le (hl : s.romLoadable = true) (hlen : image.length ≤ 3584) :
    romLoad s image = .next (s.closeLoad.writeBytes (BitVec.ofNat 12 0x200) image) := by
  rw [romLoad, hl, if_neg (by decide), if_neg (Nat.not_lt.mpr hlen)]

theorem romLoad_of_gt (hl : s.romLoadable = true) (hlen : 3584 < image.length) :
    romLoad s image = .refused .romImageTooLarge := by
  rw [romLoad, hl, if_neg (by decide), if_pos hlen]

theorem romLoad_of_closed (hl : s.romLoadable = false) : romLoad s image = .refused .romLoadWhileRunning := by
  rw [romLoad, hl]
  rfl

/-- A load that is not refused was still possible, and stores the image (R174). -/
theorem romLoad_next {t : State} (h : romLoad s image = .next t) :
    s.romLoadable = true ∧ t = s.closeLoad.writeBytes (BitVec.ofNat 12 0x200) image := by
  cases hl : s.romLoadable with
  | false => cases (romLoad_of_closed hl).symm.trans h
  | true =>
    rcases Nat.lt_or_ge 3584 image.length with hgt | hle
    · cases (romLoad_of_gt hl hgt).symm.trans h
    · exact ⟨rfl, Host.Outcome.next.inj (h.symm.trans (romLoad_of_le hl hle))⟩

end RomLoad

theorem countDown_toNat (b : Byte) : (countDown b).toNat = if b.toNat > 0 then b.toNat - 1 else 0 := by
  revert b
  decide

/-- A step performs the entry at the head of the schedule, or a cycle step when there is none, on the state with the entry taken
(log 1). -/
theorem step_eq_perform (s : State) :
    step s = perform (s.schedule.headD .cycle) (s.setSchedule s.schedule.tail) := by
  cases hs : s.schedule with
  | nil =>
    have hc : s.cycleNext = true := by rw [State.cycleNext, hs]
    rw [step_cycleNext hc, hs]
    rfl
  | cons e rest => exact step_cons hs

/-! ## The tick actor, keys and the renderer -/

/-- Settles O50: with no audio update due, the tick actor's step is the tick step. -/
theorem tickDecrementsBothTimers : Obligations.TickDecrementsBothTimers := by
  intro s rest hs hdue
  rcases tickActorStep_cases (s.setSchedule rest) with ⟨-, he⟩ | ⟨v, hv, -⟩
  · refine ⟨tickStep (s.setSchedule rest), ?_, countDown_toNat s.dt, countDown_toNat s.st, rfl, rfl⟩
    rw [step_cons hs, perform, he]
  · cases hdue.symm.trans hv

/-- Settles O51: with an update due, the tick actor's step is that update. -/
theorem audioUpdateUsesReturnedValue : Obligations.AudioUpdateUsesReturnedValue := by
  intro s rest v hs hdue
  rcases tickActorStep_cases (s.setSchedule rest) with ⟨hnone, -⟩ | ⟨w, hw, he⟩
  · cases hdue.symm.trans hnone
  · cases hdue.symm.trans hw
    rw [step_cons hs, perform, he]
    rfl

/-- Settles O52: the two cases of a key delivery. -/
theorem keyPressReachesAwaitingRegister : Obligations.KeyPressReachesAwaitingRegister := by
  intro s rest k hs
  have hstep : step s = .next (keyDelivery (s.setSchedule rest) k) := step_cons hs
  rcases keyDelivery_cases (s.setSchedule rest) k with ⟨hnone, he⟩ | ⟨r, hr, he⟩
  · refine ⟨fun _ => hstep.trans (congrArg _ he), fun r hr => ?_⟩
    cases hnone.symm.trans hr
  · refine ⟨fun hnone => ?_, fun r' hr' => ?_⟩
    · cases hnone.symm.trans hr
    · obtain rfl : r = r' := Option.some.inj (hr.symm.trans hr')
      have hread := fun q => (s.setSchedule rest).getV_setV r q (k.setWidth 8)
      refine ⟨_, hstep.trans (congrArg _ he), ?_, fun q hq => (hread q).trans (if_neg hq), rfl, rfl, fun _ => rfl⟩
      rw [State.setPending_getV, hread, if_pos rfl, BitVec.toNat_setWidth, Nat.mod_eq_of_lt (by omega)]

/-- Settles O53: each is one write of its own field. -/
theorem keyUpdateAndDirtyConsume : Obligations.KeyUpdateAndDirtyConsume :=
  fun _ _ => ⟨fun _ hs => step_cons hs, fun hs => step_cons hs⟩

/-! ## ROM load -/

/-- Settles O54: the image ends within the address space, so no byte wraps onto another. -/
theorem romLoadCopiesImageOnce : Obligations.RomLoadCopiesImageOnce := by
  intro s rest image hs
  have hstep : step s = romLoad (s.setSchedule rest) image := step_cons hs
  refine ⟨fun hl hlen => ?_, fun hl hlen => hstep.trans (romLoad_of_gt hl hlen),
    fun hl => hstep.trans (romLoad_of_closed hl)⟩
  have hread := (s.setSchedule rest).closeLoad.readMem_writeBytes image 0x200 (by omega)
  have hframe := State.writeBytes_frame image (s.setSchedule rest).closeLoad (BitVec.ofNat 12 0x200)
  refine ⟨_, hstep.trans (romLoad_of_le hl hlen), fun j hj => ?_, fun a ha => ?_, hframe, fun r => ?_⟩
  · have hq : (BitVec.ofNat 12 (0x200 + j) : Addr).toNat = 0x200 + j := by
      rw [BitVec.toNat_ofNat, Nat.mod_eq_of_lt (by omega)]
    rw [hread, dif_pos (by omega)]
    simp only [hq, Nat.add_sub_cancel_left]
  · exact (hread a).trans (dif_neg (by omega))
  · rw [hframe]
    rfl

/-! ## Reset -/

/-- Settles O55: a reset step overwrites all but the environment's three fields. -/
theorem resetStepLeavesResetState : Obligations.ResetStepLeavesResetState :=
  fun _ _ hs => step_cons hs

/-- Settles O56: memory reads as its initial contents; the frame is the blank one; the rest is written in the reset state. -/
theorem resetStateIsTheTable : Obligations.ResetStateIsTheTable := by
  intro font
  refine ⟨rfl, State.resetWith_readMem font, rfl, rfl, fun r => ?_, rfl, rfl, rfl, rfl, pixel_blankFrame, rfl, rfl,
    rfl, rfl⟩
  exact Vector.getElem_replicate r.isLt

/-! ## The halt and the wait -/

/-- While a latch stalls the machine and the load window is closed, no step but reset writes PC, I, the stack, MEM or FAULT, and
only a key press writes PENDING, and of V the awaiting register alone. -/
theorem perform_stalled {e : Event} {s t : State} (hst : s.stalled = true) (hl : s.romLoadable = false)
    (hreset : e ≠ .reset) (h : perform e s = .next t) :
    t = { s with v := t.v, pending := t.pending, dt := t.dt, st := t.st, audio := t.audio, audioDue := t.audioDue,
                 keys := t.keys, dirty := t.dirty } ∧
    (t.pending = s.pending ∨ ∃ k, e = .keyPress k) ∧ ∀ r, s.pending ≠ some r → t.getV r = s.getV r := by
  cases e with
  | cycle =>
    cases (cycleStep_stalled hst).symm.trans h
    exact ⟨rfl, .inl rfl, fun _ _ => rfl⟩
  | tickActor =>
    cases h
    rcases tickActorStep_cases s with ⟨-, he⟩ | ⟨v, -, he⟩
    · rw [he]
      exact ⟨rfl, .inl rfl, fun _ _ => rfl⟩
    · rw [he]
      exact ⟨rfl, .inl rfl, fun _ _ => rfl⟩
  | keyPress k =>
    cases h
    rcases keyDelivery_cases s k with ⟨-, he⟩ | ⟨r, hr, he⟩
    · rw [he]
      exact ⟨rfl, .inl rfl, fun _ _ => rfl⟩
    · rw [he]
      refine ⟨rfl, .inr ⟨k, rfl⟩, fun q hq => ?_⟩
      exact (s.getV_setV r q _).trans (if_neg (by rintro rfl; exact hq hr))
  | keyUpdate _ | dirtyConsume | displayRead _ _ =>
    cases h
    exact ⟨rfl, .inl rfl, fun _ _ => rfl⟩
  | romLoad image => cases (romLoad_of_closed hl).symm.trans h
  | reset => exact absurd rfl hreset

/-- Settles O57: the entry at the head of the schedule is the one performed. -/
theorem haltAndWaitAreLeftOnlyAsStated : Obligations.HaltAndWaitAreLeftOnlyAsStated := by
  intro s t h hreset hl
  rw [step_eq_perform] at h
  have he : s.schedule.headD .cycle ≠ .reset := by
    cases hs : s.schedule with
    | nil => nofun
    | cons e rest => simpa [hs] using hreset
  have hkey {k} (hk : s.schedule.headD .cycle = .keyPress k) : s.schedule.head? = some (.keyPress k) := by
    cases hs : s.schedule with
    | nil => simp [hs] at hk
    | cons e rest => simpa [hs] using hk
  have hheld (hlatch : s.fault ≠ none ∨ s.pending ≠ none) :=
    perform_stalled (s := s.setSchedule s.schedule.tail) (State.stalled_eq_true.mpr hlatch) hl he h
  refine ⟨fun f hf => ?_, fun r hr => ?_, fun hlatch => ?_⟩
  · obtain ⟨ht, -, -⟩ := hheld (.inl (by rw [hf]; nofun))
    rw [ht]
    exact hf
  · obtain ⟨-, hp, -⟩ := hheld (.inr (by rw [hr]; nofun))
    exact hp.imp (·.trans hr) fun ⟨k, hk⟩ => ⟨k, hkey hk⟩
  · obtain ⟨ht, -, hv⟩ := hheld hlatch
    rw [ht]
    exact ⟨rfl, rfl, rfl, rfl, rfl, fun r hr => ht ▸ hv r hr⟩

end Sys2Proof.Machine
end

section
/-! PROOF. What every step of every actor keeps: FONT (spec/20_memory.md R57) and the invariant (10_state.md R23, 40_flow.md R92,
60_exceptions.md R169, R174). A step performs one entry, so each is a lemma over the entries, and over the instructions where the
entry is a cycle step. -/

namespace Sys2Proof.Machine

/-! ## FONT -/

theorem exec_font {i : Instr} {s t : State} (h : exec i s = .next t) : t.font = s.font := by
  obtain ⟨-, -, -, -, -, -, -, -, -, -, hfont, -⟩ := onlyNamedInstructionsWriteState i s t h
  exact hfont

theorem cycleStep_font {s t : State} (h : cycleStep s = .next t) : t.font = s.font := by
  rcases cycleStep_cases s with ⟨-, he⟩ | ⟨-, -, he⟩ | ⟨-, -, i, -, he⟩ | ⟨-, -, op, -, he⟩
  · cases he.symm.trans h
    rfl
  · cases he.symm.trans h
    rfl
  · exact exec_font (s := s.closeLoad) (he.symm.trans h)
  · cases he.symm.trans h
    rfl

theorem perform_font {e : Event} {s t : State} (h : perform e s = .next t) : t.font = s.font := by
  cases e with
  | cycle => exact cycleStep_font h
  | tickActor =>
    cases h
    rcases tickActorStep_cases s with ⟨-, he⟩ | ⟨v, -, he⟩
    · rw [he]
      rfl
    · rw [he]
      rfl
  | keyPress k =>
    cases h
    rcases keyDelivery_cases s k with ⟨-, he⟩ | ⟨r, -, he⟩
    · rw [he]
    · rw [he]
      rfl
  | romLoad image =>
    obtain ⟨-, rfl⟩ := romLoad_next h
    exact State.writeBytes_font image s.closeLoad _
  | keyUpdate _ | dirtyConsume | displayRead _ _ | reset =>
    cases h
    rfl

/-- Settles O60: no entry changes FONT, and EA(k) after LD F is 5 * V[x] + k, which is below 80. -/
theorem fontIsConstantAndLdFFindsItsGlyphs : Obligations.FontIsConstantAndLdFFindsItsGlyphs := by
  refine ⟨fun s t h => ?_, fun s x hd hfont => ⟨_, exec_ldF x s, fun k hk => ?_⟩⟩
  · rw [step_eq_perform] at h
    exact perform_font (s := s.setSchedule s.schedule.tail) h
  · have hea : ((s.setI (glyphAddress (s.getV x))).advance.ea k).toNat = 5 * (s.getV x).toNat + k := by
      rw [State.ea_toNat, State.advance_i, State.setI_i, glyphAddress_toNat, Nat.mod_eq_of_lt (by omega), Nat.mul_comm]
    refine (hfont _ (by omega)).trans ?_
    simp only [hea]

/-! ## The state after reset -/

/-- Settles O58: memory lists no cell, no latch is set, PC is the program base and the stack is empty. -/
theorem resetSatisfiesInv : Obligations.ResetSatisfiesInv := fun font =>
  { memory := State.resetWith_memWf font
    latches := .inl rfl
    pcBounded := show (0x200#16).toNat ≤ pcBound by decide
    liveEntries := fun _ h => absurd h (Nat.not_lt_zero _)
    notStarted := fun _ => ⟨rfl, rfl, rfl, rfl, rfl⟩ }

/-! ## An instruction keeps the invariant -/

theorem exec_memWf {i : Instr} {s t : State} (h : exec i s = .next t) (hm : s.memWf = true) : t.memWf = true := by
  cases i with
  | ldB x =>
    cases h
    exact s.storeBcd_wf (s.getV x) hm
  | ldMemVx x =>
    cases h
    exact s.dumpRegs_wf (x.toNat + 1) hm
  | ldVxMem x =>
    cases h
    exact (s.loadRegs_memWf (x.toNat + 1)).trans hm
  | ret =>
    rcases exec_ret_cases h with ⟨-, rfl⟩ | ⟨_, _, _, _, ht⟩
    · exact hm
    · rw [ht]
      exact hm
  | call _ =>
    rcases exec_call_cases h with ⟨-, rfl⟩ | ⟨_, _, _, ht⟩
    · exact hm
    · rw [ht]
      exact hm
  | _ =>
    cases h
    exact hm

/-- Only RET and CALL move the stack. -/
theorem stack_of_exec {i : Instr} {s t : State} (h : exec i s = .next t) (hret : i ≠ .ret)
    (hcall : ∀ nnn, i ≠ .call nnn) : t.stack = s.stack ∧ t.sp = s.sp := by
  obtain ⟨-, hstack, hsp, -⟩ := onlyNamedInstructionsWriteState i s t h
  have hno : ¬ ∃ nnn, i = .call nnn := fun ⟨nnn, e⟩ => hcall nnn e
  exact ⟨hstack.resolve_right hno, hsp.resolve_right (not_or.mpr ⟨hret, hno⟩)⟩

theorem word_add_two_le {w : Word} (hw : w.toNat ≤ 0xFFE) : (w + 2).toNat ≤ pcBound := by
  rw [BitVec.toNat_add, pcBound]
  show (w.toNat + 2) % 65536 ≤ 0x10FE
  omega

theorem word_add_four_le {w : Word} (hw : w.toNat ≤ 0xFFE) : (w + 4).toNat ≤ pcBound := by
  rw [BitVec.toNat_add, pcBound]
  show (w.toNat + 4) % 65536 ≤ 0x10FE
  omega

theorem ofNat16_toNat_le (n : Nat) : (BitVec.ofNat 16 n).toNat ≤ n := by
  rw [BitVec.toNat_ofNat]
  exact Nat.mod_le _ _

/-- Either target of a skip is within the bound. -/
theorem ite_toNat_le {P : Prop} [Decidable P] {a b : Word} {n : Nat} (ha : a.toNat ≤ n) (hb : b.toNat ≤ n) :
    (if P then a else b).toNat ≤ n := by
  split
  · exact ha
  · exact hb

section Bounds

variable {s t : State} {i : Instr} (hpc : s.pc.toNat ≤ 0xFFE)
  (hlive : ∀ j : Fin Config.stackDepth, j.val < s.sp.val → s.stack[j.val].toNat ≤ 0xFFE)

include hpc

/-- Where the PC law sends PC from a PC that passed the fetch check: JP V0 reaches the furthest, 0xFFF + 0xFF (R23). -/
theorem pcAfter_le (hi : i ≠ .ret) : (pcAfter s i).toNat ≤ pcBound := by
  cases i with
  | ret => exact absurd rfl hi
  | seImm _ _ | seReg _ _ _ | skp _ => exact ite_toNat_le (word_add_four_le hpc) (word_add_two_le hpc)
  | sneImm _ _ | sneReg _ _ _ | sknp _ => exact ite_toNat_le (word_add_two_le hpc) (word_add_four_le hpc)
  | jp nnn | call nnn =>
    have ha := nnn.isLt
    exact (ofNat16_toNat_le _).trans (by rw [pcBound]; omega)
  | jpV0 nnn =>
    have ha := nnn.isLt
    have hb := (s.getV 0).isLt
    exact (ofNat16_toNat_le _).trans (by rw [pcBound]; omega)
  | _ => exact word_add_two_le hpc

include hlive

/-- A RET takes its target from a live entry; a fault leaves PC where it was. -/
theorem pc_le_of_exec (h : exec i s = .next t) : t.pc.toNat ≤ pcBound := by
  have hkept : s.pc.toNat ≤ pcBound := hpc.trans (by decide)
  cases i with
  | ret =>
    rcases exec_ret_cases h with ⟨-, rfl⟩ | ⟨j, hj, hsp, _, ht⟩
    · exact hkept
    · rw [ht]
      exact word_add_two_le (hlive ⟨j, hj⟩ (by rw [hsp]; exact Nat.lt_succ_self j))
  | call nnn =>
    rcases exec_call_cases h with ⟨-, rfl⟩ | ⟨hsp, _⟩
    · exact hkept
    · rw [pc_of_exec h nofun fun _ _ => hsp.ne]
      exact pcAfter_le hpc nofun
  | _ =>
    rw [pc_of_exec h nofun nofun]
    exact pcAfter_le hpc nofun

/-- CALL pushes a PC that passed the fetch check, RET only uncovers older entries, and no other instruction moves the stack. -/
theorem liveEntries_of_exec (h : exec i s = .next t) (j : Fin Config.stackDepth) (hj : j.val < t.sp.val) :
    t.stack[j.val].toNat ≤ 0xFFE := by
  cases i with
  | ret =>
    rcases exec_ret_cases h with ⟨-, rfl⟩ | ⟨k, _, hsp, hk, ht⟩
    · exact hlive j hj
    · have hstack : t.stack = s.stack := by rw [ht]
      simp only [hstack]
      exact hlive j (by omega)
  | call nnn =>
    rcases exec_call_cases h with ⟨-, rfl⟩ | ⟨_, hsp, hstack, _⟩
    · exact hlive j hj
    · rw [hstack j j.isLt]
      split
      · exact hpc
      · exact hlive j (by omega)
  | _ =>
    obtain ⟨hstack, hsp⟩ := stack_of_exec h nofun nofun
    simp only [hstack]
    exact hlive j (hsp ▸ hj)

end Bounds

/-- An instruction that starts with neither latch set does not leave both set (R169): only LD Vx,K sets PENDING. -/
theorem latches_of_exec {i : Instr} {s t : State} (hf : s.fault = none) (hp : s.pending = none)
    (h : exec i s = .next t) : t.fault = none ∨ t.pending = none := by
  by_cases hchanged : t.fault = s.fault
  · exact .inl (hchanged.trans hf)
  · rcases exec_raises h hchanged with ⟨-, -, rfl⟩ | ⟨-, -, rfl⟩
    · exact .inr hp
    · exact .inr hp

/-- An instruction keeps the invariant once the load window is closed. -/
theorem exec_inv {i : Instr} {s t : State} (hs : s.Inv) (hclosed : s.romLoadable = false) (hst : s.stalled = false)
    (hpc : s.pc.toNat ≤ 0xFFE) (h : exec i s = .next t) : t.Inv := by
  obtain ⟨hf, hp⟩ := State.stalled_eq_false.mp hst
  obtain ⟨-, -, -, -, -, -, -, -, -, -, -, -, -, -, hload, -⟩ := onlyNamedInstructionsWriteState i s t h
  exact ⟨exec_memWf h hs.memory, latches_of_exec hf hp h, pc_le_of_exec hpc hs.liveEntries h,
    liveEntries_of_exec hpc hs.liveEntries h, fun hl => Bool.noConfusion ((hload.trans hclosed).symm.trans hl)⟩

/-! ## Every entry keeps the invariant -/

theorem closeLoad_inv {s : State} (hs : s.Inv) : s.closeLoad.Inv :=
  ⟨hs.memory, hs.latches, hs.pcBounded, hs.liveEntries, nofun⟩

theorem cycleStep_inv {s t : State} (hs : s.Inv) (h : cycleStep s = .next t) : t.Inv := by
  rcases cycleStep_cases s with ⟨-, he⟩ | ⟨hst, hpc, he⟩ | ⟨hst, hpc, i, -, he⟩ | ⟨-, hpc, op, -, he⟩
  · cases he.symm.trans h
    exact hs
  · cases he.symm.trans h
    obtain ⟨-, hp⟩ := State.stalled_eq_false.mp hst
    refine ⟨hs.memory, .inr hp, hs.pcBounded, hs.liveEntries, fun hl => ?_⟩
    obtain ⟨hbase, -⟩ := hs.notStarted hl
    rw [hbase] at hpc
    exact absurd hpc (by decide)
  · exact exec_inv (closeLoad_inv hs) rfl hst hpc (he.symm.trans h)
  · cases he.symm.trans h
    exact ⟨hs.memory, hs.latches, word_add_two_le hpc, hs.liveEntries, nofun⟩

theorem perform_inv {e : Event} {s t : State} (hs : s.Inv) (h : perform e s = .next t) : t.Inv := by
  cases e with
  | cycle => exact cycleStep_inv hs h
  | tickActor =>
    cases h
    rcases tickActorStep_cases s with ⟨-, he⟩ | ⟨v, -, he⟩
    · rw [he]
      exact ⟨hs.memory, hs.latches, hs.pcBounded, hs.liveEntries, hs.notStarted⟩
    · rw [he]
      exact ⟨hs.memory, hs.latches, hs.pcBounded, hs.liveEntries, hs.notStarted⟩
  | keyPress k =>
    cases h
    rcases keyDelivery_cases s k with ⟨-, he⟩ | ⟨r, hr, he⟩
    · rw [he]
      exact hs
    · rw [he]
      refine ⟨hs.memory, .inr rfl, hs.pcBounded, hs.liveEntries, fun hl => ?_⟩
      obtain ⟨-, -, -, hp, -⟩ := hs.notStarted hl
      cases hr.symm.trans hp
  | romLoad image =>
    obtain ⟨-, rfl⟩ := romLoad_next h
    have hm := State.writeBytes_wf image s.closeLoad (BitVec.ofNat 12 0x200) hs.memory
    rw [State.writeBytes_frame] at hm ⊢
    exact ⟨hm, hs.latches, hs.pcBounded, hs.liveEntries, nofun⟩
  | keyUpdate _ | dirtyConsume | displayRead _ _ =>
    cases h
    exact ⟨hs.memory, hs.latches, hs.pcBounded, hs.liveEntries, hs.notStarted⟩
  | reset =>
    cases h
    have hr := resetSatisfiesInv s.font
    exact ⟨hr.memory, hr.latches, hr.pcBounded, hr.liveEntries, hr.notStarted⟩

/-- Settles O59: taking an entry off the schedule touches nothing that the invariant speaks of, and then `perform_inv`. -/
theorem everyStepKeepsInv : Obligations.EveryStepKeepsInv := by
  intro s t hs h
  rw [step_eq_perform] at h
  exact perform_inv (s := s.setSchedule s.schedule.tail)
    ⟨hs.memory, hs.latches, hs.pcBounded, hs.liveEntries, hs.notStarted⟩ h

end Sys2Proof.Machine
end
